-- ==== Sys2Proof/Word.lean ====
section
/-! DEFINITION. The widths of the block (00_scope.md rules R7, R8): every value is an unsigned
integer of a stated width, bit 0 the least significant. -/

namespace Sys2Proof

/-- A BitValue (R16), a line level (R14: 1 is High, 0 is Low) or a one-bit register field. -/
abbrev Bit := BitVec 1

/-- An 8-bit value: an AdcSample, a byte of a DHT11 frame, EVCOUNT (R27, R28, R32). -/
abbrev Byte := BitVec 8

/-- A 16-bit set of keys, bit 4r+c for the key in row r and column c (R75). -/
abbrev KeySet := BitVec 16

/-- A 32-bit register or command word (R22, R61). -/
abbrev Word := BitVec 32

end Sys2Proof
end

