-- ==== Sys2Proof/Config.lean ====
section
/-! DEFINITION. What a platform fixes (the parameters of 00_scope.md rule R7) and what nobody fixes
(the free values: the environment's answers, R12 and R13, the host's accesses, R6, and the interleaving
of host and sequencer, R53). -/

namespace Sys2Proof

/-- The implementation parameters of R7. Durations are in nanoseconds and are lower bounds (R11).
The spec has the model take each parameter as an argument; here they are a field of the state that no
step writes, so a statement about every state is a statement about every parameter value. -/
structure Params where
  /-- `T_HOLD`: minimum hold of each clock phase of SendBit and RecvBit. -/
  tHold : Nat
  /-- `T_CS`: minimum hold after a `CS_N` edge. -/
  tCs : Nat
  /-- `ADC_DC_BIT`: the level driven for the don't-care bit of the ADC header. -/
  adcDcBit : Bit
  /-- `T_REQ_LOW`: DHT11 start-signal low time. -/
  tReqLow : Nat
  /-- `T_REQ_HIGH`: DHT11 high time before the line is released. -/
  tReqHigh : Nat
  /-- `T_POLL`: spacing between polls of WaitLevel. -/
  tPoll : Nat
  /-- `N_WAIT`: maximum polls of one WaitLevel. -/
  nWait : Nat
  /-- `DHT_THRESH`: DHT11 bit threshold on the WaitLevel count. -/
  dhtThresh : Nat
  /-- `T_ROW`: minimum time a keypad row is high before its columns are read. -/
  tRow : Nat
  /-- `T_SCAN`: minimum sleep between keypad scan passes. -/
  tScan : Nat
  /-- `T_TILT_SETTLE`: minimum delay from a tilt edge wake to the level sample. -/
  tTiltSettle : Nat
  /-- `T_TILT_HOLD`: minimum delay after a tilt report. -/
  tTiltHold : Nat
  /-- `KEY_LABEL`, row after row: the label of key (r, c) stands at place 4r+c (R76). -/
  keyLabel : List Char
  /-- `BASE`: the base address of the register window (R42). -/
  base : Nat
  deriving DecidableEq, Repr

/-- The defaults of R7. `T_HOLD` to `T_TILT_HOLD` and `KEY_LABEL` are the spec's; `BASE` is the
platform's, and 0x40000000 is the value the spec's test vectors use.
DESIGN CHOICE (log entry 6): the value of `BASE`. -/
def Params.default : Params where
  tHold := 2000
  tCs := 0
  adcDcBit := 0#1
  tReqLow := 18000000
  tReqHigh := 40
  tPoll := 1000
  nWait := 255
  dhtThresh := 16
  tRow := 1000000
  tScan := 100000000
  tTiltSettle := 10000000
  tTiltHold := 500000000
  keyLabel := ['1', '2', '3', 'A', '4', '5', '6', 'B', '7', '8', '9', 'C', '*', '0', '#', 'D']
  base := 0x40000000

/-- `KEY_LABEL[r][c]` (R76); no rule of the block depends on it. -/
def Params.label (p : Params) (r c : Fin 4) : Option Char :=
  p.keyLabel[4 * r.val + c.val]?

/-- The environment's answer to one `Acquire` (R12). -/
inductive Grant where
  | ok
  | fail
  deriving DecidableEq, Repr, Inhabited

/-- Who moves next (R6, R53): the sequencer by one micro-action, the host by one access, or the `RST`
input, asserted at this instant (R141). -/
inductive Turn where
  | seq
  | host
  | rst
  deriving DecidableEq, Repr, Inhabited

/-- One host access as the host bus carries it (R10): a byte address and a width in bytes. -/
inductive Access where
  | read (addr width : Nat)
  | write (addr width : Nat) (value : Word)
  deriving DecidableEq, Repr

/-- The level the environment answers at a `Sample` (R13, item I4): any value. A free value; nothing
constrains it. It is indexed by the number of free draws so far, so two samples may differ. -/
opaque Config.freeLevel : Nat → Bit

/-- The answer of the environment to an `Acquire` (R12, item I6): any value. A free value. -/
opaque Config.freeGrant : Nat → Grant

/-- Which agent moves next where nothing else says so (R53): any interleaving. A free value. -/
opaque Config.freeTurn : Nat → Turn

/-- What the host does on its turn where nothing else says so (R6, R53): any access, or none. A free
value. -/
opaque Config.freeAccess : Nat → Option Access

end Sys2Proof
end

