-- ==== Sys2Proof/Syntax.lean ====
section
/-! DEFINITION. The seven commands of the block (30_encoding.md rules R62, R63), one constructor per
row of spec/opcode_table.json. An operand has exactly the width of its field in the command word, so
every value of this type is a command some legal word names; no further check on it is needed. -/

namespace Sys2Proof

/-- The command set at version 1 of the spec (R2). -/
inductive Instr where
  /-- `SEND_BIT V` (R85): `V` is `CW[4]`. -/
  | sendBit (v : BitVec 1)
  /-- `RECV_BIT` (R86). -/
  | recvBit
  /-- `ADC_READ CH` (R89): `CH` is `CW[5:4]`. -/
  | adcRead (ch : BitVec 2)
  /-- `DHT_READ` (R104). -/
  | dhtRead
  /-- `KEYPAD_RUN` (R110). -/
  | keypadRun
  /-- `TILT_RUN` (R117). -/
  | tiltRun
  /-- `SLIDE_RUN I0, I1` (R120): `I0` is `CW[4]`, `I1` is `CW[5]`. -/
  | slideRun (i0 i1 : BitVec 1)
  deriving DecidableEq, Repr

end Sys2Proof
end

