-- ==== Sys2Proof/Machine/State.lean ====
section
/-! DEFINITION. Everything the spec gives the machine (10_state.md), as plain data: ports, host-visible
registers, sequencer position, line ownership, working registers; and beside it the environment and the
host as the block sees them, the parameters and the time base. -/

namespace Sys2Proof.Machine

/-! ### Digital lines (R17) and who owns them (R35) -/

/-- The digital lines of R17. `DHT_O`, `DHT_OE` and `DHT_I` are the three signals of one line (R20). -/
inductive Line where
  | sclk
  | sdo
  | sdi
  | csN
  | dht
  | krow (r : Fin 4)
  | kcol (c : Fin 4)
  | swIn
  | ind0
  | ind1
  deriving DecidableEq, Repr

/-- The direction a line is acquired with (R11). -/
inductive Dir where
  | input
  | output
  deriving DecidableEq, Repr

/-- Four like things: one for each keypad row or column. -/
structure Four (α : Type) where
  at0 : α
  at1 : α
  at2 : α
  at3 : α
  deriving DecidableEq, Repr

/-- `OWN` (R35): which lines the running command has acquired, and in which direction. `none` is not
owned. -/
structure Own where
  sclk : Option Dir
  sdo : Option Dir
  sdi : Option Dir
  csN : Option Dir
  dht : Option Dir
  krow : Four (Option Dir)
  kcol : Four (Option Dir)
  swIn : Option Dir
  ind0 : Option Dir
  ind1 : Option Dir
  deriving DecidableEq, Repr

/-- The levels the block drives on its output ports (R17). An input port has no state: its level is the
environment's answer at each sample (R13). -/
structure Ports where
  sclk : Bit
  sdo : Bit
  csN : Bit
  dhtO : Bit
  dhtOe : Bit
  /-- `KROW[3:0]`; bit r is row r. -/
  krow : BitVec 4
  ind0 : Bit
  ind1 : Bit
  deriving DecidableEq, Repr

/-! ### Host-visible registers (R22 to R32), field by field; reserved fields hold nothing and read 0 -/

/-- The outcome codes of `STATUS.ERR` (R123). Codes 6 and 7 are never written, so they have no
constructor. -/
inductive ErrCode where
  | none
  | lineAcq
  | timeout
  | checksum
  | sampleDisagree
  | illegalCmd
  deriving DecidableEq, Repr

/-- `STATUS` (R25). -/
structure Status where
  busy : Bit
  done : Bit
  cmdRej : Bit
  err : ErrCode
  keyEvt : Bit
  keyOvr : Bit
  swEvt : Bit
  deriving DecidableEq, Repr

/-- `RXBIT` (R26). -/
structure RxBit where
  bit : Bit
  valid : Bit
  deriving DecidableEq, Repr

/-- `ADC_DATA` (R27). -/
structure AdcData where
  sample : Byte
  ch : BitVec 2
  valid : Bit
  deriving DecidableEq, Repr

/-- `DHT_DATA` (R28). -/
structure DhtData where
  humInt : Byte
  humDec : Byte
  tempInt : Byte
  tempDec : Byte
  deriving DecidableEq, Repr

/-- `DHT_CSUM` (R29). -/
structure DhtCsum where
  csum : Byte
  valid : Bit
  deriving DecidableEq, Repr

/-- The host-visible registers (R22). `SW_STATE` (R32) shows `SW_LAST`, the ports `IND0` and `IND1` and
`EVCOUNT`; only `EVCOUNT` has its home here. -/
structure Regs where
  /-- `CMD` (R23): all 32 bits are stored. -/
  cmd : Word
  /-- `CTRL.CANCEL` (R24). -/
  cancel : Bit
  status : Status
  rxbit : RxBit
  adcData : AdcData
  dhtData : DhtData
  dhtCsum : DhtCsum
  /-- `KEY_NEW.NEW` (R30). -/
  keyNew : KeySet
  /-- `KEY_CUR.CUR` (R31). -/
  keyCur : KeySet
  /-- `SW_STATE.EVCOUNT` (R32). -/
  evCount : Byte
  deriving DecidableEq, Repr

/-! ### Internal state (R33 to R39) -/

/-- A DHT11 frame, `frame[0]` to `frame[4]`, under the names of R74. -/
structure Frame where
  humInt : Byte
  humDec : Byte
  tempInt : Byte
  tempDec : Byte
  checksum : Byte
  deriving DecidableEq, Repr

/-- The working registers (R36 to R39). What those of R37 to R39 hold outside the command that uses them is
log entry 23. -/
structure Work where
  /-- `SW_LAST` (R36), read by the host as `SW_STATE.LEVEL`. -/
  swLast : Bit
  /-- The MSB-first accumulator of ADC_READ (R37). -/
  msb : Byte
  /-- The LSB-first accumulator of ADC_READ (R37). -/
  lsb : Byte
  /-- `frame[0..4]` of DHT_READ (R38). -/
  frame : Frame
  /-- `byte`, the byte being assembled (R38). -/
  byte : Byte
  /-- `n`, the count returned by the last WaitLevel (R38). -/
  n : Byte
  /-- `cur`, the keys pressed in the scan pass in progress (R39). -/
  cur : KeySet
  /-- `prev`, the keys of the previous complete pass (R39). -/
  prev : KeySet
  deriving DecidableEq, Repr

/-! ### Sequencer position (R34): the next micro-action of each micro-program

The test of an `if` and the evaluation of an expression belong to the micro-action that follows (R11). Where
that concerns a level just sampled or a bit just returned, the position carries it to that micro-action (log
entry 10). -/

/-- The five micro-actions of SendBit (R81). -/
inductive SendPos where
  | clockLow
  | holdLow
  | data
  | clockHigh
  | holdHigh
  deriving DecidableEq, Repr

/-- The five micro-actions of RecvBit (R82); after the sample the bit `b` is carried along. -/
inductive RecvPos where
  | clockLow
  | holdLow
  | sample
  | clockHigh (b : Bit)
  | holdHigh (b : Bit)
  deriving DecidableEq, Repr

/-- The micro-actions of WaitLevel (R98), with its loop index `i`. `poll i`: the sample of poll `i`, or, with
`i` = `N_WAIT`, the `raise Err(TIMEOUT)`. `seen i b`: poll `i` has read `b`; the next micro-action tests `b`
and is `Hold(T_POLL)`, or what follows the WaitLevel if it returns. -/
inductive WaitPos where
  | poll (i : Nat)
  | seen (i : Nat) (b : Bit)
  deriving DecidableEq, Repr

/-- A place of DHT_READ where a WaitLevel runs: one of the three handshake waits (R100), or one of the two
waits of bit j of byte k (R101, R102). -/
inductive WaitSite where
  | handshake (k : Fin 3)
  | fall (k : Fin 5) (j : Fin 8)
  | rise (k : Fin 5) (j : Fin 8)
  deriving DecidableEq, Repr

/-- SEND_BIT (R85). -/
inductive SendBitPos where
  | acquireClock
  | acquireData
  | send (p : SendPos)
  | finish
  deriving DecidableEq, Repr

/-- RECV_BIT (R86); the last position carries the received bit. -/
inductive RecvBitPos where
  | acquireClock
  | acquireData
  | recv (p : RecvPos)
  | finish (b : Bit)
  deriving DecidableEq, Repr

/-- ADC_READ (R89). `header k`: the k-th SendBit of the header; `msbPath k`: the RecvBit of p(k+1);
`lsbPath k`: the RecvBit for i = k+1. Between two of them the next micro-action evaluates first: `startMsb`
clears `msb`; `msbGot k b` and `lsbGot k b` fold in the bit that the RecvBit returned, `sharedGot b` the bare
sample of p8. -/
inductive AdcPos where
  | acquireSelect
  | acquireClock
  | acquireOut
  | acquireIn
  | selectLow
  | holdSelected
  | header (k : Fin 5) (p : SendPos)
  | startMsb
  | msbPath (k : Fin 7) (p : RecvPos)
  | msbGot (k : Fin 7) (b : Bit)
  | sharedGot (b : Bit)
  | lsbPath (k : Fin 7) (p : RecvPos)
  | lsbGot (k : Fin 7) (b : Bit)
  | holdReleased
  | finish
  deriving DecidableEq, Repr

/-- DHT_READ (R104): Request (R99), then the 83 waits of Handshake (R100) and ReadFrame (R102). The completion
is the micro-action that follows the last of them. -/
inductive DhtPos where
  | acquireOut
  | driveLow
  | holdLow
  | driveHigh
  | holdHigh
  | acquireIn
  | wait (site : WaitSite) (p : WaitPos)
  deriving DecidableEq, Repr

/-- KEYPAD_RUN (R110) and ScanPass (R109). `top`: the test of `CANCEL` and the micro-action it belongs
to, which is row 0's rise or the completion. `firstColumn r`: the sample of column 0. `seen r c b`: column c
of row r has read `b`; the next micro-action tests `b`, and is the next column's sample or the row's fall. -/
inductive KeypadPos where
  | acquireRow (r : Fin 4)
  | acquireColumn (c : Fin 4)
  | top
  | rowHigh (r : Fin 4)
  | rowHold (r : Fin 4)
  | firstColumn (r : Fin 4)
  | seen (r c : Fin 4) (b : Bit)
  | endOfPass
  | scanHold
  deriving DecidableEq, Repr

/-- TILT_RUN (R117). `top`: the test of `CANCEL` with the first iteration of WaitEdge; `waitEdge`: a
later iteration; `report`: TiltReport of the settled level. -/
inductive TiltPos where
  | acquireSwitch
  | acquireInd0
  | acquireInd1
  | firstSample
  | top
  | waitEdge
  | cancelled
  | settleHold
  | settledSample
  | report (v : Bit)
  | reportHold
  deriving DecidableEq, Repr

/-- SLIDE_RUN (R120); `toggle`: SlideToggle of the edge's level. -/
inductive SlidePos where
  | acquireSwitch
  | acquireInd0
  | acquireInd1
  | driveStart
  | firstSample
  | top
  | waitEdge
  | cancelled
  | toggle (e : Bit)
  deriving DecidableEq, Repr

/-- `SEQ` (R34): IDLE, or the command being executed with its operands and the position of its next
micro-action, with the loop indices the program uses. -/
inductive Seq where
  | idle
  | sendBit (v : BitVec 1) (p : SendBitPos)
  | recvBit (p : RecvBitPos)
  | adcRead (ch : BitVec 2) (p : AdcPos)
  | dhtRead (p : DhtPos)
  | keypadRun (p : KeypadPos)
  | tiltRun (p : TiltPos)
  | slideRun (i0 i1 : BitVec 1) (p : SlidePos)
  deriving DecidableEq, Repr

/-! ### The host and the environment (R6) -/

/-- A statement of the host program (R78, R79): an access; `POLL`, which reads until the masked value is
`val`; and the two assignments of `SHIFT_IN` to the host variable `x`, which do not reach the block. -/
inductive HostStmt where
  | access (a : Access)
  | poll (addr : Nat) (mask val : Word)
  /-- `x = 0` (R79). -/
  | clearX
  /-- `x = (x << 1) | (t & 1)`, where `t` is the value of the last read (R79). -/
  | shiftX
  deriving DecidableEq, Repr

/-- The model's own part of the state, not the block's: what the other two agents are about to do. -/
structure Env where
  /-- The environment's answers to the coming `Sample`s, in order; a free value where the list is
  empty (R13). -/
  levels : List Bit
  /-- The environment's answers to the coming `Acquire`s, in order; a free value where the list is
  empty (R12). -/
  grants : List Grant
  /-- The host's coming accesses, in the order the host issues them; a free value where the list is empty
  (R53). -/
  host : List HostStmt
  /-- Who moves next; a free value where the list is empty (R53). -/
  turns : List Turn
  /-- The value the host bus returned to the host's last read. -/
  rdata : Word
  /-- The host variable `x` that `SHIFT_IN` fills (R79); no part of the block (R78). -/
  x : Nat
  /-- How many free values have been drawn. -/
  drawn : Nat
  deriving DecidableEq, Repr

/-- Why the machine stops. -/
inductive Fault where
  /-- Raised by a host access in the window that is not an aligned 32-bit access: the bus-error response
  of R44, which the spec has the model treat as a fault of the host program (item I15). Safe: the block
  itself is unchanged, and the model stops where the host would go on. -/
  | busError
  /-- Raised by a host access outside the window (R51, item I15): the block does not decode it. Safe. -/
  | notDecoded
  deriving DecidableEq, Repr

/-- Why a command has no meaning. -/
inductive Refusal where
  /-- Raised by an arm of `exec` that has no meaning yet; no arm of this model is one. Safe. -/
  | notModelled (mnemonic : String)
  deriving DecidableEq, Repr

/-- The state of the machine. -/
structure State where
  /-- The host-visible registers (R22 to R32). -/
  regs : Regs
  /-- The output ports (R17). -/
  ports : Ports
  /-- The sequencer position (R34). -/
  seq : Seq
  /-- Line ownership (R35). -/
  own : Own
  /-- The working registers (R36 to R39). -/
  work : Work
  /-- The host and the environment. -/
  env : Env
  /-- The time base (R15): the nanoseconds by which the holds of the current or last command bound its
  duration from below. -/
  held : Nat
  /-- The parameters (R7); no step changes them. -/
  params : Params
  deriving DecidableEq, Repr

/-- No line is owned. -/
def Own.empty : Own where
  sclk := .none
  sdo := .none
  sdi := .none
  csN := .none
  dht := .none
  krow := ⟨.none, .none, .none, .none⟩
  kcol := ⟨.none, .none, .none, .none⟩
  swIn := .none
  ind0 := .none
  ind1 := .none

/-- The machine right after reset (70_reset_and_hazards.md rules R141, R142): every register field 0, the
ports at the reset levels of R17, `SEQ` idle, no line owned, `SW_LAST` 0.
DESIGN CHOICE (log entries 2, 3, 4, 6, 7, 12): the working registers, which the spec leaves unspecified,
are 0; nothing is queued in the environment or at the host; the parameters are the defaults. -/
def State.reset : State where
  regs :=
    { cmd := 0
      cancel := 0
      status :=
        { busy := 0, done := 0, cmdRej := 0, err := .none, keyEvt := 0, keyOvr := 0, swEvt := 0 }
      rxbit := { bit := 0, valid := 0 }
      adcData := { sample := 0, ch := 0, valid := 0 }
      dhtData := { humInt := 0, humDec := 0, tempInt := 0, tempDec := 0 }
      dhtCsum := { csum := 0, valid := 0 }
      keyNew := 0
      keyCur := 0
      evCount := 0 }
  ports :=
    { sclk := 1, sdo := 0, csN := 1, dhtO := 0, dhtOe := 0, krow := 0, ind0 := 0, ind1 := 0 }
  seq := .idle
  own := Own.empty
  work :=
    { swLast := 0
      msb := 0
      lsb := 0
      frame := { humInt := 0, humDec := 0, tempInt := 0, tempDec := 0, checksum := 0 }
      byte := 0
      n := 0
      cur := 0
      prev := 0 }
  env := { levels := [], grants := [], host := [], turns := [], rdata := 0, x := 0, drawn := 0 }
  held := 0
  params := Params.default

end Sys2Proof.Machine
end

