-- ==== Sys2Proof/Machine/Operands.lean ====
section
/-! DEFINITION. The values the micro-programs compute: loop indices, the ADC0834 header and its two
readout paths (30_encoding.md rules R69 to R72), the DHT11 frame and checksum (R73, R74, R103), and the
key sets (R75). Nothing here reads or writes the state. -/

namespace Sys2Proof.Machine

/-- The next index of a `for` loop, or nothing after the last one. -/
def nextIndex {n : Nat} (k : Fin n) : Option (Fin n) :=
  if h : k.val + 1 < n then some ⟨k.val + 1, h⟩ else none

/-- `{v, b}` in 8 bits: `((v << 1) | b)[7:0]` (R89, R102). -/
def shiftIn (v : Byte) (b : Bit) : Byte := v <<< 1 ||| b.setWidth 8

/-- `lsb | (b << i)` (R94). -/
def placeBit (v : Byte) (b : Bit) (i : Nat) : Byte := v ||| b.setWidth 8 <<< i

/-- The header bit SELECT: 1 if the channel is above 1 (R69). -/
def selectBit (ch : BitVec 2) : Bit := if ch > 1 then 1 else 0

/-- The ADC0834 header `H` (R69): START, SGL/DIFF, ODD/SIGN, SELECT and the don't-care bit `dc`. -/
def adcHeader (ch : BitVec 2) (dc : Bit) : BitVec 5 :=
  1#1 ++ 1#1 ++ ch.extractLsb' 0 1 ++ selectBit ch ++ dc

/-- The header bit sent at position k+1: `H[4-k]` (R69). -/
def headerBit (ch : BitVec 2) (dc : Bit) (k : Fin 5) : Bit :=
  (adcHeader ch dc).extractLsb' (4 - k.val) 1

/-- The level the k-th wait of the DHT11 handshake waits for: 1, 0, 1 (R100). -/
def handshakeLevel (k : Fin 3) : Bit := if k.val = 1 then 0 else 1

/-- The level a wait waits for (R100, R101). -/
def WaitSite.level : WaitSite → Bit
  | .handshake k => handshakeLevel k
  | .fall _ _ => 0
  | .rise _ _ => 1

/-- The wait that follows a wait in DHT_READ, or nothing after the last one: the three of Handshake (R100),
then for each byte and each bit the two of ReadBit (R101, R102). -/
def WaitSite.next : WaitSite → Option WaitSite
  | .handshake k =>
    match nextIndex k with
    | some k' => some (.handshake k')
    | none => some (.fall 0 0)
  | .fall k j => some (.rise k j)
  | .rise k j =>
    match nextIndex j with
    | some j' => some (.fall k j')
    | none =>
      match nextIndex k with
      | some k' => some (.fall k' 0)
      | none => none

/-- The DHT11 bit for a WaitLevel count: 1 if the count exceeds the threshold (R101). -/
def dhtBit (n : Byte) (threshold : Nat) : Bit := if n.toNat > threshold then 1 else 0

/-- `frame[k] <- b` (R74, R102). -/
def setFrameByte (f : Frame) (k : Fin 5) (b : Byte) : Frame :=
  match k with
  | 0 => { f with humInt := b }
  | 1 => { f with humDec := b }
  | 2 => { f with tempInt := b }
  | 3 => { f with tempDec := b }
  | 4 => { f with checksum := b }

/-- The checksum of a frame's first four bytes: their sum modulo 256 (R103). -/
def frameSum (f : Frame) : Byte :=
  BitVec.ofNat 8 ((f.humInt.toNat + f.humDec.toNat + f.tempInt.toNat + f.tempDec.toNat) % 256)

/-- `Validate()` (R103). -/
def frameValid (f : Frame) : Bool := frameSum f == f.checksum

/-- The bit of a key set for key (r, c) (R75). -/
def keyIndex (r c : Fin 4) : Nat := 4 * r.val + c.val

/-- `cur[4*r + c] <- 1` (R109). -/
def addKey (s : KeySet) (r c : Fin 4) : KeySet := s ||| 1#16 <<< keyIndex r c

/-- The set difference `cur & ~prev` (R111). -/
def newKeys (cur prev : KeySet) : KeySet := cur &&& ~~~prev

/-- `v` with row r's level replaced (R19). -/
def setRow (v : BitVec 4) (r : Fin 4) (level : Bit) : BitVec 4 :=
  if level = 1 then v ||| 1#4 <<< r.val else v &&& ~~~(1#4 <<< r.val)

/-- The bit v[i] of a word (R8). -/
def wordBit (w : Word) (i : Nat) : Bit := w.extractLsb' i 1

end Sys2Proof.Machine
end

