-- ==== Sys2Proof/Machine/Flags.lean ====
section
/-! DEFINITION. The outcome codes and the flags of `STATUS` (10_state.md rule R25, 60_exceptions.md rule
R123), and the event latches of the trackers (43_trackers.md rules R112, R118, R121). -/

namespace Sys2Proof.Machine

/-- The three-bit value of an outcome (R123). -/
def errValue : ErrCode → BitVec 3
  | .none => 0
  | .lineAcq => 1
  | .timeout => 2
  | .checksum => 3
  | .sampleDisagree => 4
  | .illegalCmd => 5

/-- The 32-bit word `STATUS` reads as (R25). -/
def statusWord (s : Status) : Word :=
  0#21 ++ s.swEvt ++ s.keyOvr ++ s.keyEvt ++ 0#1 ++ errValue s.err ++ 0#1 ++ s.cmdRej ++ s.done ++
    s.busy

/-- A W1C field after a write: cleared by a 1, left by a 0 (R25). -/
def clearedBy (written flag : Bit) : Bit := if written = 1 then 0 else flag

/-- The flags of `STATUS` after the word `w` is written to it (R25, R48): `BUSY` and `ERR` are read-only. -/
def writeStatusFlags (w : Word) (s : Status) : Status :=
  { s with
    done := clearedBy (wordBit w 1) s.done
    cmdRej := clearedBy (wordBit w 2) s.cmdRej
    keyEvt := clearedBy (wordBit w 8) s.keyEvt
    keyOvr := clearedBy (wordBit w 9) s.keyOvr
    swEvt := clearedBy (wordBit w 10) s.swEvt }

/-- A host write to `STATUS` (R48): writing 1 to `KEY_EVT` also sets `KEY_NEW.NEW` to 0. -/
def writeStatus (w : Word) (r : Regs) : Regs :=
  { r with
    status := writeStatusFlags w r.status
    keyNew := if wordBit w 8 = 1 then 0 else r.keyNew }

/-- `KeyEmit(new)` (R112). -/
def keyEmit (new : KeySet) (r : Regs) : Regs :=
  { r with
    status :=
      { r.status with
        keyOvr := if r.status.keyEvt = 1 then 1 else r.status.keyOvr
        keyEvt := 1 }
    keyNew := r.keyNew ||| new }

/-- The event count and flag of TiltReport and SlideToggle (R118, R121); the count is modulo 256. -/
def countSwitchEvent (r : Regs) : Regs :=
  { r with evCount := r.evCount + 1, status := { r.status with swEvt := 1 } }

end Sys2Proof.Machine
end

