-- ==== Sys2Proof/Machine/Ops.lean ====
section
/-! DEFINITION. The micro-action primitives of the sequencer (00_scope.md rule R11), the acceptance of a
command (30_encoding.md rules R66, R67), its completion (60_exceptions.md rule R130, the block's analogue
of taking an exception and of the return from it), and reset (70_reset_and_hazards.md rule R141). -/

namespace Sys2Proof.Machine

/-- What one step or one instruction answers. -/
abbrev Result := Host.Outcome State Fault Refusal

/-! ### The environment's answers -/

/-- The next answer to a `Sample` (R13): the queued one, or a free value. -/
def drawLevel (s : State) : Bit × State :=
  match s.env.levels with
  | b :: rest => (b, { s with env := { s.env with levels := rest } })
  | [] =>
    (Config.freeLevel s.env.drawn, { s with env := { s.env with drawn := s.env.drawn + 1 } })

/-- The next answer to an `Acquire` (R12): the queued one, or a free value. -/
def drawGrant (s : State) : Grant × State :=
  match s.env.grants with
  | g :: rest => (g, { s with env := { s.env with grants := rest } })
  | [] =>
    (Config.freeGrant s.env.drawn, { s with env := { s.env with drawn := s.env.drawn + 1 } })

/-! ### Ownership (R35) -/

def Four.get {α : Type} (f : Four α) (i : Fin 4) : α :=
  match i with
  | 0 => f.at0
  | 1 => f.at1
  | 2 => f.at2
  | 3 => f.at3

def Four.set {α : Type} (f : Four α) (i : Fin 4) (a : α) : Four α :=
  match i with
  | 0 => { f with at0 := a }
  | 1 => { f with at1 := a }
  | 2 => { f with at2 := a }
  | 3 => { f with at3 := a }

/-- `OWN[l]` (R35). -/
def Own.get (o : Own) : Line → Option Dir
  | .sclk => o.sclk
  | .sdo => o.sdo
  | .sdi => o.sdi
  | .csN => o.csN
  | .dht => o.dht
  | .krow r => o.krow.get r
  | .kcol c => o.kcol.get c
  | .swIn => o.swIn
  | .ind0 => o.ind0
  | .ind1 => o.ind1

/-- `OWN[l] <- d` (R35). -/
def Own.set (o : Own) (l : Line) (d : Option Dir) : Own :=
  match l with
  | .sclk => { o with sclk := d }
  | .sdo => { o with sdo := d }
  | .sdi => { o with sdi := d }
  | .csN => { o with csN := d }
  | .dht => { o with dht := d }
  | .krow r => { o with krow := o.krow.set r d }
  | .kcol c => { o with kcol := o.kcol.set c d }
  | .swIn => { o with swIn := d }
  | .ind0 => { o with ind0 := d }
  | .ind1 => { o with ind1 := d }

/-! ### Micro-actions (R11) -/

/-- The sequencer moves to the position `p` (R34). -/
def goto (p : Seq) (s : State) : State := { s with seq := p }

/-- `Drive(line, lvl)` (R11). An input line has no driver, and no micro-program drives one. -/
def drivePorts (l : Line) (level : Bit) (p : Ports) : Ports :=
  match l with
  | .sclk => { p with sclk := level }
  | .sdo => { p with sdo := level }
  | .csN => { p with csN := level }
  | .dht => { p with dhtO := level }
  | .krow r => { p with krow := setRow p.krow r level }
  | .ind0 => { p with ind0 := level }
  | .ind1 => { p with ind1 := level }
  | .sdi => p
  | .kcol _ => p
  | .swIn => p

/-- `Drive(line, lvl)` as a micro-action (R11): the new level appears on the port at that step. -/
def drive (l : Line) (level : Bit) (s : State) : State :=
  { s with ports := drivePorts l level s.ports }

/-- `Hold(t)` (R11, R15): the next micro-action starts no earlier than `t` after this one. -/
def hold (t : Nat) (s : State) : State := { s with held := s.held + t }

/-- `Sample(line)` (R11, R13): each sample is a draw of its own, whatever the line. -/
def sample (_line : Line) (s : State) : Bit × State := drawLevel s

/-- The line `l` becomes owned with direction `d` (R11). An output keeps its level; for the DHT line the
direction is `DHT_OE` (R20). -/
def take (l : Line) (d : Dir) (s : State) : State :=
  { s with
    own := s.own.set l (some d)
    ports :=
      match l with
      | .dht => { s.ports with dhtOe := match d with | .output => 1 | .input => 0 }
      | _ => s.ports }

/-- Every owned line is released (R130): output ports keep their level; the DHT line, if owned, stops
being driven (R20). -/
def releaseAll (s : State) : State :=
  { s with
    own := Own.empty
    ports :=
      match s.own.dht with
      | some _ => { s.ports with dhtOe := 0 }
      | none => s.ports }

/-- `complete(code) with results` (R130), one micro-action: the results only with NONE, then the release
of every line, `ERR`, `BUSY`, `DONE` and `SEQ`. DESIGN CHOICE (log entry 23), unsafe: the working registers
`msb`, `lsb`, `frame`, `byte`, `n`, `cur` and `prev` keep the last run's values, which R37 to R39 and item I11
leave open. -/
def complete (code : ErrCode) (results : Regs → Regs) (s : State) : State :=
  let s := { s with regs := match code with | .none => results s.regs | _ => s.regs }
  let s := releaseAll s
  { s with
    regs := { s.regs with status := { s.regs.status with err := code, busy := 0, done := 1 } }
    seq := .idle }

/-- `raise Err(code)` (R11, R130): completion with no result writes. -/
def raiseErr (code : ErrCode) (s : State) : State := complete code id s

/-- `Acquire(line, dir)` (R11, R12): on `ok` the line is owned and the command goes on at `next`; on `fail`
the command ends with LINE_ACQ. DEDUCED (log entry 9): the failing `Acquire` and the end it brings are one
micro-action. -/
def acquire (l : Line) (d : Dir) (next : Seq) (s : State) : State :=
  match drawGrant s with
  | (.ok, s') => goto next (take l d s')
  | (.fail, s') => raiseErr .lineAcq s'

/-! ### Issue, acceptance, rejection (R66, R67) -/

/-- The first micro-action of a command with its operands (R66). -/
def startOf : Instr → Seq
  | .sendBit v => .sendBit v .acquireClock
  | .recvBit => .recvBit .acquireClock
  | .adcRead ch => .adcRead ch .acquireSelect
  | .dhtRead => .dhtRead .acquireOut
  | .keypadRun => .keypadRun (.acquireRow 0)
  | .tiltRun => .tiltRun .acquireSwitch
  | .slideRun i0 i1 => .slideRun i0 i1 .acquireSwitch

/-- The command `SEQ` executes, with its operands, or nothing when it is IDLE (R34). -/
def runningCommand : Seq → Option Instr
  | .idle => none
  | .sendBit v _ => some (.sendBit v)
  | .recvBit _ => some .recvBit
  | .adcRead ch _ => some (.adcRead ch)
  | .dhtRead _ => some .dhtRead
  | .keypadRun _ => some .keypadRun
  | .tiltRun _ => some .tiltRun
  | .slideRun i0 i1 _ => some (.slideRun i0 i1)

/-- The acceptance clears of R67. -/
def acceptanceClears (i : Instr) (r : Regs) : Regs :=
  match i with
  | .sendBit _ => r
  | .recvBit => { r with rxbit := { r.rxbit with valid := 0 } }
  | .adcRead _ => { r with adcData := { r.adcData with valid := 0 } }
  | .dhtRead => { r with dhtCsum := { r.dhtCsum with valid := 0 } }
  | .keypadRun =>
    { r with
      keyNew := 0
      keyCur := 0
      status := { r.status with keyEvt := 0, keyOvr := 0 } }
  | .tiltRun => { r with evCount := 0, status := { r.status with swEvt := 0 } }
  | .slideRun _ _ => { r with evCount := 0, status := { r.status with swEvt := 0 } }

/-- The fresh working state of a run (R37, R38, R39, R146). DEDUCED (log entry 8): it is made at
acceptance, which keeps `KEY_CUR` equal to `prev` during the whole run (R31). DESIGN CHOICE (log entry 23),
unsafe: the working registers of other commands keep their values (item I11), and `frame`, `byte`, `n` and
`cur` start at 0. -/
def freshWork (i : Instr) (w : Work) : Work :=
  match i with
  | .sendBit _ => w
  | .recvBit => w
  | .adcRead _ => { w with msb := 0, lsb := 0 }
  | .dhtRead =>
    { w with
      frame := { humInt := 0, humDec := 0, tempInt := 0, tempDec := 0, checksum := 0 }
      byte := 0
      n := 0 }
  | .keypadRun => { w with cur := 0, prev := 0 }
  | .tiltRun => w
  | .slideRun _ _ => w

/-- The acceptance of a legal command by an idle block (R66, R67), one step: `DONE` and `ERR` are cleared,
the fields of R67 are cleared, `BUSY` is set and `SEQ` is at the command's first micro-action. -/
def accept (i : Instr) (s : State) : State :=
  let r := acceptanceClears i s.regs
  { s with
    regs := { r with status := { r.status with busy := 1, done := 0, err := .none } }
    seq := startOf i
    work := freshWork i s.work
    held := 0 }

/-- A command turned away because another one runs (R66): only `CMD_REJ` is set. -/
def rejectBusy (s : State) : State :=
  { s with regs := { s.regs with status := { s.regs.status with cmdRej := 1 } } }

/-! ### Reset (R141, R144) -/

/-- The `RST` input is asserted: the running command is abandoned with no completion and every piece of
the block's state takes its reset value. The host, the environment and the parameters are not the
block's and are kept. -/
def assertReset (s : State) : State :=
  { State.reset with env := s.env, params := s.params }

end Sys2Proof.Machine
end

