-- ==== Sys2Proof/Machine/Transport.lean ====
section
/-! DEFINITION. The bit-clock transport (40_transport.md): the primitives SendBit and RecvBit, which
ADC_READ also uses, and the commands SEND_BIT and RECV_BIT. -/

namespace Sys2Proof.Machine

/-- One micro-action of `SendBit(v)` (R81). -/
def sendMicro (v : Bit) (p : SendPos) (s : State) : State :=
  match p with
  | .clockLow => drive .sclk 0 s
  | .holdLow => hold s.params.tHold s
  | .data => drive .sdo v s
  | .clockHigh => drive .sclk 1 s
  | .holdHigh => hold s.params.tHold s

/-- The micro-action after `p` in SendBit, or nothing after the last (R81). -/
def afterSend : SendPos → Option SendPos
  | .clockLow => some .holdLow
  | .holdLow => some .data
  | .data => some .clockHigh
  | .clockHigh => some .holdHigh
  | .holdHigh => none

/-- What follows a micro-action of RecvBit: another one, or the return of the received bit. -/
inductive RecvNext where
  | more (p : RecvPos)
  | got (b : Bit)
  deriving DecidableEq, Repr

/-- One micro-action of `RecvBit()` (R82). -/
def recvMicro (p : RecvPos) (s : State) : RecvNext × State :=
  match p with
  | .clockLow => (.more .holdLow, drive .sclk 0 s)
  | .holdLow => (.more .sample, hold s.params.tHold s)
  | .sample =>
    match sample .sdi s with
    | (b, s') => (.more (.clockHigh b), s')
  | .clockHigh b => (.more (.holdHigh b), drive .sclk 1 s)
  | .holdHigh b => (.got b, hold s.params.tHold s)

/-- One micro-action of `SEND_BIT V` (R85). -/
def sendBitMicro (v : Bit) (p : SendBitPos) (s : State) : State :=
  match p with
  | .acquireClock => acquire .sclk .output (.sendBit v .acquireData) s
  | .acquireData => acquire .sdo .output (.sendBit v (.send .clockLow)) s
  | .send q =>
    match afterSend q with
    | some q' => goto (.sendBit v (.send q')) (sendMicro v q s)
    | none => goto (.sendBit v .finish) (sendMicro v q s)
  | .finish => complete .none id s

/-- The result writes of RECV_BIT (R86). -/
def recvBitResult (b : Bit) (r : Regs) : Regs := { r with rxbit := { bit := b, valid := 1 } }

/-- One micro-action of `RECV_BIT` (R86). -/
def recvBitMicro (p : RecvBitPos) (s : State) : State :=
  match p with
  | .acquireClock => acquire .sclk .output (.recvBit .acquireData) s
  | .acquireData => acquire .sdi .input (.recvBit (.recv .clockLow)) s
  | .recv q =>
    match recvMicro q s with
    | (.more q', s') => goto (.recvBit (.recv q')) s'
    | (.got b, s') => goto (.recvBit (.finish b)) s'
  | .finish b => complete .none (recvBitResult b) s

/-- `SEND_BIT V` (R85): an idle block accepts it (R66), the block that runs it performs its next
micro-action, and a block that runs another command turns it away (R66; DESIGN CHOICE, log entry 14). -/
def execSendBit (v : BitVec 1) (s : State) : Result :=
  match s.seq with
  | .idle => .next (accept (.sendBit v) s)
  | .sendBit v' p => if v' = v then .next (sendBitMicro v p s) else .next (rejectBusy s)
  | _ => .next (rejectBusy s)

/-- `RECV_BIT` (R86), in the three cases of `execSendBit`. -/
def execRecvBit (s : State) : Result :=
  match s.seq with
  | .idle => .next (accept .recvBit s)
  | .recvBit p => .next (recvBitMicro p s)
  | _ => .next (rejectBusy s)

end Sys2Proof.Machine
end

