-- ==== Sys2Proof/Machine/Adc.lean ====
section
/-! DEFINITION. ADC_READ (41_adc0834.md): header, two readout paths and the dual-path validator. -/

namespace Sys2Proof.Machine

/-- The result writes of ADC_READ (R89). -/
def adcResult (ch : BitVec 2) (v : Byte) (r : Regs) : Regs :=
  { r with adcData := { sample := v, ch := ch, valid := 1 } }

/-- The position after a finished header bit (R91): the next one, or the start of the MSB-first path. -/
def afterHeader (k : Fin 5) : AdcPos :=
  match nextIndex k with
  | some k' => .header k' .clockLow
  | none => .startMsb

/-- `msb <- ((msb << 1) | b)[7:0]` (R89). -/
def foldMsb (b : Bit) (s : State) : State :=
  { s with work := { s.work with msb := shiftIn s.work.msb b } }

/-- `lsb <- lsb | (b << i)` (R89). -/
def foldLsb (b : Bit) (i : Nat) (s : State) : State :=
  { s with work := { s.work with lsb := placeBit s.work.lsb b i } }

/-- One micro-action of a RecvBit within a path, and the position after it: `path` is the path's position for
a position of the RecvBit, `got` the one that takes the returned bit on. -/
def pathMicro (ch : BitVec 2) (path : RecvPos → AdcPos) (got : Bit → AdcPos) (q : RecvPos) (s : State) :
    State :=
  match recvMicro q s with
  | (.more q', s') => goto (.adcRead ch (path q')) s'
  | (.got b, s') => goto (.adcRead ch (got b)) s'

/-- One micro-action of the RecvBit of p(k+1) (R92). -/
def msbMicro (ch : BitVec 2) (k : Fin 7) (q : RecvPos) (s : State) : State :=
  pathMicro ch (.msbPath k) (.msbGot k) q s

/-- One micro-action of the RecvBit for i = k+1 (R94). -/
def lsbMicro (ch : BitVec 2) (k : Fin 7) (q : RecvPos) (s : State) : State :=
  pathMicro ch (.lsbPath k) (.lsbGot k) q s

/-- The bare sample of p8, with no clock edge (R93). -/
def sharedMicro (ch : BitVec 2) (s : State) : State :=
  match sample .sdi s with
  | (b, s') => goto (.adcRead ch (.sharedGot b)) s'

/-- One micro-action of `ADC_READ CH` (R89). What the program evaluates between two micro-actions belongs to
the second of them (R11). -/
def adcMicro (ch : BitVec 2) (p : AdcPos) (s : State) : State :=
  match p with
  | .acquireSelect => acquire .csN .output (.adcRead ch .acquireClock) s
  | .acquireClock => acquire .sclk .output (.adcRead ch .acquireOut) s
  | .acquireOut => acquire .sdo .output (.adcRead ch .acquireIn) s
  | .acquireIn => acquire .sdi .input (.adcRead ch .selectLow) s
  | .selectLow => goto (.adcRead ch .holdSelected) (drive .csN 0 s)
  | .holdSelected => goto (.adcRead ch (.header 0 .clockLow)) (hold s.params.tCs s)
  | .header k q =>
    match afterSend q with
    | some q' =>
      goto (.adcRead ch (.header k q')) (sendMicro (headerBit ch s.params.adcDcBit k) q s)
    | none =>
      goto (.adcRead ch (afterHeader k)) (sendMicro (headerBit ch s.params.adcDcBit k) q s)
  | .startMsb => msbMicro ch 0 .clockLow { s with work := { s.work with msb := 0 } }
  | .msbPath k q => msbMicro ch k q s
  | .msbGot k b =>
    match nextIndex k with
    | some k' => msbMicro ch k' .clockLow (foldMsb b s)
    | none => sharedMicro ch (foldMsb b s)
  | .sharedGot b =>
    lsbMicro ch 0 .clockLow
      { s with work := { s.work with msb := shiftIn s.work.msb b, lsb := b.setWidth 8 } }
  | .lsbPath k q => lsbMicro ch k q s
  | .lsbGot k b =>
    match nextIndex k with
    | some k' => lsbMicro ch k' .clockLow (foldLsb b (k.val + 1) s)
    | none => goto (.adcRead ch .holdReleased) (drive .csN 1 (foldLsb b (k.val + 1) s))
  | .holdReleased => goto (.adcRead ch .finish) (hold s.params.tCs s)
  | .finish =>
    if s.work.msb = s.work.lsb then complete .none (adcResult ch s.work.msb) s
    else raiseErr .sampleDisagree s

/-- `ADC_READ CH` (R89), in the three cases of `execSendBit`. -/
def execAdcRead (ch : BitVec 2) (s : State) : Result :=
  match s.seq with
  | .idle => .next (accept (.adcRead ch) s)
  | .adcRead ch' p => if ch' = ch then .next (adcMicro ch p s) else .next (rejectBusy s)
  | _ => .next (rejectBusy s)

end Sys2Proof.Machine
end

