-- ==== Sys2Proof/Machine/Dht.lean ====
section
/-! DEFINITION. DHT_READ (42_dht11.md): the bounded wait, request, handshake, bit decode, frame assembly
and checksum validation. -/

namespace Sys2Proof.Machine

/-- Poll `i` of the WaitLevel at `site` (R98): a sample, or the `raise Err(TIMEOUT)` once `i` has reached
`N_WAIT`. -/
def pollMicro (site : WaitSite) (i : Nat) (s : State) : State :=
  if i < s.params.nWait then
    match sample .dht s with
    | (b, s') => goto (.dhtRead (.wait site (.seen i b))) s'
  else raiseErr .timeout s

/-- The result writes of DHT_READ (R104). -/
def dhtResult (f : Frame) (r : Regs) : Regs :=
  { r with
    dhtData := { humInt := f.humInt, humDec := f.humDec, tempInt := f.tempInt, tempDec := f.tempDec }
    dhtCsum := { csum := f.checksum, valid := 1 } }

/-- `byte` takes a decoded bit, and `frame[k]` takes `byte` after the last bit of byte k (R102). -/
def takeDhtBit (k : Fin 5) (j : Fin 8) (b : Bit) (w : Work) : Work :=
  let byte := shiftIn w.byte b
  match nextIndex j with
  | some _ => { w with byte := byte }
  | none => { w with byte := byte, frame := setFrameByte w.frame k byte }

/-- What the return of `i` from the WaitLevel at `site` leaves in the working registers: `n` (R38), and after
the second wait of ReadBit the decoded bit (R101, R102). -/
def waitReturns (site : WaitSite) (i : Nat) (threshold : Nat) (w : Work) : Work :=
  let n := BitVec.ofNat 8 i
  match site with
  | .handshake _ => { w with n := n }
  | .fall _ _ => { w with n := n }
  | .rise k j => takeDhtBit k j (dhtBit n threshold) { w with n := n }

/-- `byte <- 0` stands before the first wait of a byte (R102). -/
def enterWait (site : WaitSite) (w : Work) : Work :=
  match site with
  | .handshake _ => w
  | .fall _ j => if j.val = 0 then { w with byte := 0 } else w
  | .rise _ _ => w

/-- The end of DHT_READ (R103, R104). -/
def dhtFinish (s : State) : State :=
  if frameValid s.work.frame then complete .none (dhtResult s.work.frame) s
  else raiseErr .checksum s

/-- The micro-action that follows the return of `i` from the WaitLevel at `site`: the first poll of the next
wait, or the end of the command. What the program evaluates in between belongs to it (R11). -/
def afterWait (site : WaitSite) (i : Nat) (s : State) : State :=
  let s := { s with work := waitReturns site i s.params.dhtThresh s.work }
  match site.next with
  | some site' => pollMicro site' 0 { s with work := enterWait site' s.work }
  | none => dhtFinish s

/-- One micro-action of `WaitLevel(L)` (R98), with the test of the level just read in the micro-action that
follows the sample (R11). -/
def waitMicro (site : WaitSite) (p : WaitPos) (s : State) : State :=
  match p with
  | .poll i => pollMicro site i s
  | .seen i b =>
    if b = site.level then afterWait site i s
    else goto (.dhtRead (.wait site (.poll (i + 1)))) (hold s.params.tPoll s)

/-- One micro-action of `DHT_READ` (R104). -/
def dhtMicro (p : DhtPos) (s : State) : State :=
  match p with
  | .acquireOut => acquire .dht .output (.dhtRead .driveLow) s
  | .driveLow => goto (.dhtRead .holdLow) (drive .dht 0 s)
  | .holdLow => goto (.dhtRead .driveHigh) (hold s.params.tReqLow s)
  | .driveHigh => goto (.dhtRead .holdHigh) (drive .dht 1 s)
  | .holdHigh => goto (.dhtRead .acquireIn) (hold s.params.tReqHigh s)
  | .acquireIn => acquire .dht .input (.dhtRead (.wait (.handshake 0) (.poll 0))) s
  | .wait site q => waitMicro site q s

/-- `DHT_READ` (R104), in the three cases of `execSendBit`. -/
def execDhtRead (s : State) : Result :=
  match s.seq with
  | .idle => .next (accept .dhtRead s)
  | .dhtRead p => .next (dhtMicro p s)
  | _ => .next (rejectBusy s)

end Sys2Proof.Machine
end

