-- ==== Sys2Proof/Machine/Trackers.lean ====
section
/-! DEFINITION. The debounced input trackers (43_trackers.md): KEYPAD_RUN, TILT_RUN and SLIDE_RUN. Each
runs until it sees `CTRL.CANCEL` as 1 (R116, R122). DEDUCED (log entry 11): the test of `CANCEL` at the top
of an outer iteration belongs to the micro-action that follows it (R11). -/

namespace Sys2Proof.Machine

/-! ### Keypad (R109 to R112) -/

/-- `EndOfPass(cur)` (R111). -/
def endOfPass (s : State) : State :=
  let new := newKeys s.work.cur s.work.prev
  let r := if new ≠ 0 then keyEmit new s.regs else s.regs
  { s with
    regs := { r with keyCur := s.work.cur }
    work := { s.work with prev := s.work.cur } }

/-- The position after the acquisition of row r (R110). -/
def afterAcquireRow (r : Fin 4) : KeypadPos :=
  match nextIndex r with
  | some r' => .acquireRow r'
  | none => .acquireColumn 0

/-- The position after the acquisition of column c (R110). -/
def afterAcquireColumn (c : Fin 4) : KeypadPos :=
  match nextIndex c with
  | some c' => .acquireColumn c'
  | none => .top

/-- The position after row r is driven low (R109). -/
def afterRow (r : Fin 4) : KeypadPos :=
  match nextIndex r with
  | some r' => .rowHigh r'
  | none => .endOfPass

/-- The sample of column c in row r (R109). -/
def columnMicro (r c : Fin 4) (s : State) : State :=
  match sample (.kcol c) s with
  | (b, s') => goto (.keypadRun (.seen r c b)) s'

/-- `if b == 1: cur[4*r + c] <- 1` (R109). -/
def markKey (r c : Fin 4) (b : Bit) (s : State) : State :=
  if b = 1 then { s with work := { s.work with cur := addKey s.work.cur r c } } else s

/-- One micro-action of `KEYPAD_RUN` (R110). The test of a column's level belongs to the micro-action that
follows its sample (R11). -/
def keypadMicro (p : KeypadPos) (s : State) : State :=
  match p with
  | .acquireRow r => acquire (.krow r) .output (.keypadRun (afterAcquireRow r)) s
  | .acquireColumn c => acquire (.kcol c) .input (.keypadRun (afterAcquireColumn c)) s
  | .top =>
    if s.regs.cancel = 1 then complete .none id s
    else
      goto (.keypadRun (.rowHold 0)) (drive (.krow 0) 1 { s with work := { s.work with cur := 0 } })
  | .rowHigh r => goto (.keypadRun (.rowHold r)) (drive (.krow r) 1 s)
  | .rowHold r => goto (.keypadRun (.firstColumn r)) (hold s.params.tRow s)
  | .firstColumn r => columnMicro r 0 s
  | .seen r c b =>
    match nextIndex c with
    | some c' => columnMicro r c' (markKey r c b s)
    | none => goto (.keypadRun (afterRow r)) (drive (.krow r) 0 (markKey r c b s))
  | .endOfPass => goto (.keypadRun .scanHold) (endOfPass s)
  | .scanHold => goto (.keypadRun .top) (hold s.params.tScan s)

/-- `KEYPAD_RUN` (R110), in the three cases of `execSendBit`. -/
def execKeypadRun (s : State) : Result :=
  match s.seq with
  | .idle => .next (accept .keypadRun s)
  | .keypadRun p => .next (keypadMicro p s)
  | _ => .next (rejectBusy s)

/-! ### Edge-wait (R114, R115) -/

/-- What one iteration of WaitEdge comes to. -/
inductive EdgeNext where
  | cancelled
  | quiet
  | edge (level : Bit)
  deriving DecidableEq, Repr

/-- One iteration of `WaitEdge()` (R114), one micro-action: `CANCEL` is tested before the sample. -/
def waitEdgeMicro (s : State) : EdgeNext × State :=
  if s.regs.cancel = 1 then (.cancelled, s)
  else
    match sample .swIn s with
    | (b, s') => if b ≠ s'.work.swLast then (.edge b, s') else (.quiet, s')

/-- `SW_LAST <- v` (R36). -/
def setSwLast (v : Bit) (s : State) : State := { s with work := { s.work with swLast := v } }

/-- The initial reference: `SW_LAST <- Sample(SW_IN)` (R117, R120). -/
def firstReference (s : State) : State :=
  match sample .swIn s with
  | (b, s') => setSwLast b s'

/-! ### Tilt (R117, R118) -/

/-- `TiltReport(v)` (R118), one micro-action. -/
def tiltReport (v : Bit) (s : State) : State :=
  let s := drive .ind1 (~~~v) (drive .ind0 v (setSwLast v s))
  { s with regs := countSwitchEvent s.regs }

/-- One micro-action of `TILT_RUN` (R117). -/
def tiltMicro (p : TiltPos) (s : State) : State :=
  match p with
  | .acquireSwitch => acquire .swIn .input (.tiltRun .acquireInd0) s
  | .acquireInd0 => acquire .ind0 .output (.tiltRun .acquireInd1) s
  | .acquireInd1 => acquire .ind1 .output (.tiltRun .firstSample) s
  | .firstSample => goto (.tiltRun .top) (firstReference s)
  | .top =>
    match waitEdgeMicro s with
    | (.cancelled, s') => complete .none id s'
    | (.quiet, s') => goto (.tiltRun .waitEdge) s'
    | (.edge _, s') => goto (.tiltRun .settleHold) s'
  | .waitEdge =>
    match waitEdgeMicro s with
    | (.cancelled, s') => goto (.tiltRun .cancelled) s'
    | (.quiet, s') => goto (.tiltRun .waitEdge) s'
    | (.edge _, s') => goto (.tiltRun .settleHold) s'
  | .cancelled => complete .none id s
  | .settleHold => goto (.tiltRun .settledSample) (hold s.params.tTiltSettle s)
  | .settledSample =>
    match sample .swIn s with
    | (v, s') => goto (.tiltRun (.report v)) s'
  | .report v => goto (.tiltRun .reportHold) (tiltReport v s)
  | .reportHold => goto (.tiltRun .top) (hold s.params.tTiltHold s)

/-- `TILT_RUN` (R117), in the three cases of `execSendBit`. -/
def execTiltRun (s : State) : Result :=
  match s.seq with
  | .idle => .next (accept .tiltRun s)
  | .tiltRun p => .next (tiltMicro p s)
  | _ => .next (rejectBusy s)

/-! ### Slide (R120, R121) -/

/-- `SlideToggle(e)` (R121), one micro-action. -/
def slideToggle (e : Bit) (s : State) : State :=
  let s := setSwLast e s
  let s := drive .ind1 (~~~s.ports.ind1) (drive .ind0 (~~~s.ports.ind0) s)
  { s with regs := countSwitchEvent s.regs }

/-- One micro-action of `SLIDE_RUN I0, I1` (R120). -/
def slideMicro (i0 i1 : Bit) (p : SlidePos) (s : State) : State :=
  match p with
  | .acquireSwitch => acquire .swIn .input (.slideRun i0 i1 .acquireInd0) s
  | .acquireInd0 => acquire .ind0 .output (.slideRun i0 i1 .acquireInd1) s
  | .acquireInd1 => acquire .ind1 .output (.slideRun i0 i1 .driveStart) s
  | .driveStart => goto (.slideRun i0 i1 .firstSample) (drive .ind1 i1 (drive .ind0 i0 s))
  | .firstSample => goto (.slideRun i0 i1 .top) (firstReference s)
  | .top =>
    match waitEdgeMicro s with
    | (.cancelled, s') => complete .none id s'
    | (.quiet, s') => goto (.slideRun i0 i1 .waitEdge) s'
    | (.edge e, s') => goto (.slideRun i0 i1 (.toggle e)) s'
  | .waitEdge =>
    match waitEdgeMicro s with
    | (.cancelled, s') => goto (.slideRun i0 i1 .cancelled) s'
    | (.quiet, s') => goto (.slideRun i0 i1 .waitEdge) s'
    | (.edge e, s') => goto (.slideRun i0 i1 (.toggle e)) s'
  | .cancelled => complete .none id s
  | .toggle e => goto (.slideRun i0 i1 .top) (slideToggle e s)

/-- `SLIDE_RUN I0, I1` (R120), in the three cases of `execSendBit`. -/
def execSlideRun (i0 i1 : BitVec 1) (s : State) : Result :=
  match s.seq with
  | .idle => .next (accept (.slideRun i0 i1) s)
  | .slideRun j0 j1 p =>
    if j0 = i0 ∧ j1 = i1 then .next (slideMicro i0 i1 p s) else .next (rejectBusy s)
  | _ => .next (rejectBusy s)

end Sys2Proof.Machine
end

