-- ==== Sys2Proof/Machine/Dispatch.lean ====
section
/-! DEFINITION. What the block does next with a command: one arm per constructor of `Instr`, each one call
of that command's meaning. -/

namespace Sys2Proof.Machine

def exec (i : Instr) (s : State) : Host.Outcome State Fault Refusal :=
  match i with
  | .sendBit v => Sys2Proof.Machine.execSendBit v s
  | .recvBit => Sys2Proof.Machine.execRecvBit s
  | .adcRead ch => Sys2Proof.Machine.execAdcRead ch s
  | .dhtRead => Sys2Proof.Machine.execDhtRead s
  | .keypadRun => Sys2Proof.Machine.execKeypadRun s
  | .tiltRun => Sys2Proof.Machine.execTiltRun s
  | .slideRun i0 i1 => Sys2Proof.Machine.execSlideRun i0 i1 s

end Sys2Proof.Machine
end

