-- ==== Sys2Proof/WellFormed.lean ====
section
/-! DEFINITION. The checks the spec puts on what a programmer or a platform writes down: the operands of
an assembly statement (30_encoding.md rule R77) and the parameters (R7, R42, R84). -/

namespace Sys2Proof

/-- A command as an assembler reads it (R77): operands are plain numbers, and may be out of range. -/
inductive Asm where
  | sendBit (v : Nat)
  | recvBit
  | adcRead (ch : Nat)
  | dhtRead
  | keypadRun
  | tiltRun
  | slideRun (i0 i1 : Nat)
  deriving DecidableEq, Repr

/-- R77: an operand out of range (v > 1, ch > 3, i0 or i1 > 1) is an assembly error. -/
def Asm.WellFormed : Asm → Bool
  | .sendBit v => v ≤ 1
  | .recvBit => true
  | .adcRead ch => ch ≤ 3
  | .dhtRead => true
  | .keypadRun => true
  | .tiltRun => true
  | .slideRun i0 i1 => i0 ≤ 1 && i1 ≤ 1

/-- What the spec demands of a parameter set: the floor of `T_HOLD` is 2 µs (R84), `BASE` is a multiple
of 0x40 (R42), a WaitLevel count is an 8-bit value in 0..`N_WAIT`-1 (R38, R98), and there are 16 key
labels (R76). -/
def Params.WellFormed (p : Params) : Bool :=
  2000 ≤ p.tHold && p.base % 0x40 = 0 && p.nWait ≤ 256 && p.keyLabel.length = 16

end Sys2Proof
end

