-- ==== Sys2Proof/Decode.lean ====
section
/-! DEFINITION. The command word (30_encoding.md section 1): decoding it, encoding it, and the legality
predicate of rule R64. -/

namespace Sys2Proof

/-- Why a command word names no command (R65). -/
inductive Reject where
  /-- `RSVD` (bits 31:8) is not zero. -/
  | reservedBits
  /-- `OP` is 0x0 or 0x8 to 0xF. -/
  | reservedOpcode
  /-- a bit of `ARG` that the command does not read is not zero. -/
  | unusedArgument
  deriving DecidableEq, Repr

/-- The field `OP`, `CW[3:0]` (R61). -/
def opField (w : Word) : BitVec 4 := w.extractLsb' 0 4

/-- The field `ARG`, `CW[7:4]` (R61). -/
def argField (w : Word) : BitVec 4 := w.extractLsb' 4 4

/-- The field `RSVD`, `CW[31:8]` (R61). -/
def rsvdField (w : Word) : BitVec 24 := w.extractLsb' 8 24

/-- `legal(CW)` (R64). -/
def legal (w : Word) : Bool :=
  rsvdField w == 0 &&
    ((opField w == 0x1 && w.extractLsb' 5 3 == 0#3) ||
      ((opField w == 0x2 || opField w == 0x4 || opField w == 0x5 || opField w == 0x6) &&
        argField w == 0) ||
      ((opField w == 0x3 || opField w == 0x7) && w.extractLsb' 6 2 == 0#2))

/-- Answers the command if the unused bits of `ARG` are zero, and the reason why not otherwise (R64). -/
def withoutArgument {n : Nat} (unused : BitVec n) (i : Instr) : Except Reject Instr :=
  if unused = 0 then .ok i else .error .unusedArgument

/-- The decoder (R62, R63, R64, R68): total on 32-bit words, one command or one named reason. -/
def decode (w : Word) : Except Reject Instr :=
  if rsvdField w ≠ 0 then .error .reservedBits
  else if opField w = 0x1 then withoutArgument (w.extractLsb' 5 3) (.sendBit (w.extractLsb' 4 1))
  else if opField w = 0x2 then withoutArgument (argField w) .recvBit
  else if opField w = 0x3 then withoutArgument (w.extractLsb' 6 2) (.adcRead (w.extractLsb' 4 2))
  else if opField w = 0x4 then withoutArgument (argField w) .dhtRead
  else if opField w = 0x5 then withoutArgument (argField w) .keypadRun
  else if opField w = 0x6 then withoutArgument (argField w) .tiltRun
  else if opField w = 0x7 then
    withoutArgument (w.extractLsb' 6 2) (.slideRun (w.extractLsb' 4 1) (w.extractLsb' 5 1))
  else .error .reservedOpcode

/-- The encoder (R77): the command word each command assembles to. -/
def encode : Instr → Word
  | .sendBit v => 0x01#32 ||| v.setWidth 32 <<< 4
  | .recvBit => 0x02#32
  | .adcRead ch => 0x03#32 ||| ch.setWidth 32 <<< 4
  | .dhtRead => 0x04#32
  | .keypadRun => 0x05#32
  | .tiltRun => 0x06#32
  | .slideRun i0 i1 => 0x07#32 ||| i0.setWidth 32 <<< 4 ||| i1.setWidth 32 <<< 5

/-- The word on byte lanes: lane k carries bits 8k+7 to 8k, little-endian (20_memory.md rule R45). -/
def byteLane (w : Word) (k : Nat) : Byte := w.extractLsb' (8 * k) 8

/-- The word whose byte lanes are the four bytes, lane 0 first (R45). -/
def ofLanes (b0 b1 b2 b3 : Byte) : Word := b3 ++ b2 ++ b1 ++ b0

/-- Decoding a byte stream, lane 0 of a word first (R45): every command word is four bytes (R61). `none`
where fewer than four bytes are left. -/
def decodeBytes : List Byte → Option (Except Reject Instr × List Byte)
  | b0 :: b1 :: b2 :: b3 :: rest => some (decode (ofLanes b0 b1 b2 b3), rest)
  | _ => none

/-- The 32-bit command word whose low `nbits` bits are those of `w`, the others 0. -/
def tableWord (nbits w : Nat) : Word := BitVec.ofNat 32 (w % 2 ^ nbits)

/-- What the decoder reads from a row of spec/opcode_table.json: the word is laid on its four byte lanes
and given to the decoder. -/
def decodeTableWord (nbits w : Nat) : Option Instr :=
  let cw := tableWord nbits w
  match decodeBytes [byteLane cw 0, byteLane cw 1, byteLane cw 2, byteLane cw 3] with
  | some (.ok i, _) => some i
  | _ => none

/-- The assembler (R77): the command a statement stands for, or nothing where an operand is out of range
(an assembly error; it is not encoded). -/
def Asm.toInstr (a : Asm) : Option Instr :=
  if a.WellFormed then
    match a with
    | .sendBit v => some (.sendBit (BitVec.ofNat 1 v))
    | .recvBit => some .recvBit
    | .adcRead ch => some (.adcRead (BitVec.ofNat 2 ch))
    | .dhtRead => some .dhtRead
    | .keypadRun => some .keypadRun
    | .tiltRun => some .tiltRun
    | .slideRun i0 i1 => some (.slideRun (BitVec.ofNat 1 i0) (BitVec.ofNat 1 i1))
  else none

/-- The command word a statement assembles to (R77). -/
def Asm.word (a : Asm) : Option Word := a.toInstr.map encode

/-- One hexadecimal digit's value. -/
def hexDigit (c : Char) : Option Nat :=
  if '0' ≤ c ∧ c ≤ '9' then some (c.toNat - 48)
  else if 'a' ≤ c ∧ c ≤ 'f' then some (c.toNat - 87)
  else if 'A' ≤ c ∧ c ≤ 'F' then some (c.toNat - 55)
  else none

/-- The number a run of digits in base `b` stands for, with the digits read so far worth `acc`. -/
def digits (b : Nat) : List Char → Nat → Option Nat
  | [], acc => some acc
  | c :: cs, acc =>
    match hexDigit c with
    | some d => if d < b then digits b cs (acc * b + d) else none
    | none => none

/-- An operand: decimal, or hexadecimal after `0x` (R77). -/
def parseOperand : List Char → Option Nat
  | [] => none
  | '0' :: 'x' :: c :: cs => digits 16 (c :: cs) 0
  | cs => digits 10 cs 0

/-- The mnemonic of a command, as R77 spells it. -/
def mnemonicChars : Instr → List Char
  | .sendBit _ => ['S', 'E', 'N', 'D', '_', 'B', 'I', 'T']
  | .recvBit => ['R', 'E', 'C', 'V', '_', 'B', 'I', 'T']
  | .adcRead _ => ['A', 'D', 'C', '_', 'R', 'E', 'A', 'D']
  | .dhtRead => ['D', 'H', 'T', '_', 'R', 'E', 'A', 'D']
  | .keypadRun => ['K', 'E', 'Y', 'P', 'A', 'D', '_', 'R', 'U', 'N']
  | .tiltRun => ['T', 'I', 'L', 'T', '_', 'R', 'U', 'N']
  | .slideRun _ _ => ['S', 'L', 'I', 'D', 'E', '_', 'R', 'U', 'N']

/-- A command statement read from its mnemonic and its operand texts (R77). -/
def parseAsm (mnemonic : List Char) (operands : List (List Char)) : Option Asm :=
  match operands with
  | [] =>
    if mnemonic = mnemonicChars .recvBit then some .recvBit
    else if mnemonic = mnemonicChars .dhtRead then some .dhtRead
    else if mnemonic = mnemonicChars .keypadRun then some .keypadRun
    else if mnemonic = mnemonicChars .tiltRun then some .tiltRun
    else none
  | [x] =>
    if mnemonic = mnemonicChars (.sendBit 0) then (parseOperand x).map .sendBit
    else if mnemonic = mnemonicChars (.adcRead 0) then (parseOperand x).map .adcRead
    else none
  | [x, y] =>
    if mnemonic = mnemonicChars (.slideRun 0 0) then
      match parseOperand x, parseOperand y with
      | some a, some b => some (.slideRun a b)
      | _, _ => none
    else none
  | _ => none

/-- The parts of a text between its separators. -/
def splitText (sep : Char) : List Char → List (List Char)
  | [] => [[]]
  | c :: cs =>
    if c = sep then [] :: splitText sep cs
    else
      match splitText sep cs with
      | part :: parts => (c :: part) :: parts
      | [] => [[c]]

/-- A text without its leading and trailing spaces. -/
def trimText (cs : List Char) : List Char :=
  ((cs.dropWhile (· = ' ')).reverse.dropWhile (· = ' ')).reverse

/-- The command word a line of assembly stands for (R77): a mnemonic, and after a space its operands with
commas between them. Nothing for a line that is no command statement or has an operand out of range. -/
def assembleLine (line : List Char) : Option Word :=
  let text := trimText line
  let mnemonic := text.takeWhile (· ≠ ' ')
  let operands := trimText (text.drop mnemonic.length)
  (parseAsm mnemonic (if operands = [] then [] else (splitText ',' operands).map trimText)).bind
    Asm.word

end Sys2Proof
end

