-- ==== Sys2Proof/Machine/HostBus.lean ====
section
/-! DEFINITION. The host register window (20_memory.md): which access reaches which register, what a read
returns, what a write does, and the issue of a command (30_encoding.md rule R66). -/

namespace Sys2Proof.Machine

/-- The ten registers of the map (R22). -/
inductive Reg where
  | cmd
  | status
  | ctrl
  | rxbit
  | adcData
  | dhtData
  | dhtCsum
  | keyNew
  | keyCur
  | swState
  deriving DecidableEq, Repr

/-- The byte offset of a register (R22). -/
def regOffset : Reg → Nat
  | .cmd => 0x00
  | .status => 0x04
  | .ctrl => 0x08
  | .rxbit => 0x0C
  | .adcData => 0x10
  | .dhtData => 0x14
  | .dhtCsum => 0x18
  | .keyNew => 0x1C
  | .keyCur => 0x20
  | .swState => 0x24

/-- The register at a byte offset (R22); nothing at the reserved offsets 0x28 to 0x3C (R50). -/
def regAt (offset : Nat) : Option Reg :=
  match offset with
  | 0x00 => some .cmd
  | 0x04 => some .status
  | 0x08 => some .ctrl
  | 0x0C => some .rxbit
  | 0x10 => some .adcData
  | 0x14 => some .dhtData
  | 0x18 => some .dhtCsum
  | 0x1C => some .keyNew
  | 0x20 => some .keyCur
  | 0x24 => some .swState
  | _ => none

/-- The word a register reads as (R23 to R32): its fields in place, reserved fields 0. -/
def regWord (s : State) : Reg → Word
  | .cmd => s.regs.cmd
  | .status => statusWord s.regs.status
  | .ctrl => 0#31 ++ s.regs.cancel
  | .rxbit => s.regs.rxbit.valid ++ 0#30 ++ s.regs.rxbit.bit
  | .adcData => s.regs.adcData.valid ++ 0#21 ++ s.regs.adcData.ch ++ s.regs.adcData.sample
  | .dhtData =>
    s.regs.dhtData.tempDec ++ s.regs.dhtData.tempInt ++ s.regs.dhtData.humDec ++
      s.regs.dhtData.humInt
  | .dhtCsum => s.regs.dhtCsum.valid ++ 0#23 ++ s.regs.dhtCsum.csum
  | .keyNew => 0#16 ++ s.regs.keyNew
  | .keyCur => 0#16 ++ s.regs.keyCur
  | .swState =>
    0#16 ++ s.regs.evCount ++ 0#5 ++ s.ports.ind1 ++ s.ports.ind0 ++ s.work.swLast

/-- What a read of the window returns at a byte offset: the register, or 0 at a reserved offset (R50). -/
def readOffset (s : State) (offset : Nat) : Word :=
  match regAt offset with
  | some r => regWord s r
  | none => 0

/-- The offset an access of `width` bytes at `addr` names. Outside the window the block does not decode it
(R51); inside, only an aligned access of four bytes is admitted (R43, R44). -/
def windowOffset (base addr width : Nat) : Except Fault Nat :=
  if addr < base ∨ base + 0x3F < addr then .error .notDecoded
  else if width ≠ 4 ∨ (addr - base) % 4 ≠ 0 then .error .busError
  else .ok (addr - base)

/-- An illegal command word accepted while idle (R65, R66): `ERR` and `DONE`, and nothing else. -/
def illegalCommand (s : State) : State :=
  { s with regs := { s.regs with status := { s.regs.status with err := .illegalCmd, done := 1 } } }

/-- A write of `w` to `CMD` (R66), with `run` for what the block does with a command. While busy it only
sets `CMD_REJ`; otherwise `w` is stored, and a legal word's command is accepted. Only `BUSY` is tested: the
block imposes no minimum interval between commands (R153), so a write right after a completion is accepted. -/
def issue (run : Instr → State → Result) (w : Word) (s : State) : Result :=
  if s.regs.status.busy = 1 then .next (rejectBusy s)
  else
    match decode w with
    | .ok i => run i { s with regs := { s.regs with cmd := w } }
    | .error _ => .next (illegalCommand { s with regs := { s.regs with cmd := w } })

/-- A write of `w` at a byte offset (R48, R49, R50): `CMD`, `STATUS` and `CTRL` have effects, every other
write is ignored. -/
def writeOffset (run : Instr → State → Result) (offset : Nat) (w : Word) (s : State) : Result :=
  match regAt offset with
  | some .cmd => issue run w s
  | some .status => .next { s with regs := writeStatus w s.regs }
  | some .ctrl => .next { s with regs := { s.regs with cancel := wordBit w 0 } }
  | some .rxbit => .next s
  | some .adcData => .next s
  | some .dhtData => .next s
  | some .dhtCsum => .next s
  | some .keyNew => .next s
  | some .keyCur => .next s
  | some .swState => .next s
  | none => .next s

/-- A read returns its word on the host bus and changes nothing of the block (R47). -/
def returnRead (v : Word) (s : State) : State := { s with env := { s.env with rdata := v } }

/-- One host access (R43, R44, R51, R52): performed in full between two micro-actions, or a fault that
leaves the block unchanged. -/
def performAccess (run : Instr → State → Result) (a : Access) (s : State) : Result :=
  match a with
  | .read addr width =>
    match windowOffset s.params.base addr width with
    | .ok offset => .next (returnRead (readOffset s offset) s)
    | .error f => .fault f
  | .write addr width w =>
    match windowOffset s.params.base addr width with
    | .ok offset => writeOffset run offset w s
    | .error f => .fault f

/-- What the host does next (R6, R53): the first of its queued statements, or, with none queued, a free
value, which may be no access at all. -/
def nextStatement (s : State) : Option HostStmt :=
  match s.env.host with
  | h :: _ => some h
  | [] => (Config.freeAccess s.env.drawn).map .access

/-- The host after it has begun its next statement: a queued one is taken off the list, a free one is
counted. -/
def takeStatement (s : State) : State :=
  match s.env.host with
  | _ :: rest => { s with env := { s.env with host := rest } }
  | [] => { s with env := { s.env with drawn := s.env.drawn + 1 } }

/-- One `POLL` read (R78): the host goes on to its later statements once the masked value is `val`, and
polls again otherwise. -/
def performPoll (addr : Nat) (mask val : Word) (s : State) : Result :=
  match windowOffset s.params.base addr 4 with
  | .ok offset =>
    let v := readOffset s offset
    if v &&& mask = val then .next (returnRead v (takeStatement s))
    else .next (returnRead v s)
  | .error f => .fault f

/-- The value of `x = (x << 1) | (t & 1)` (R79). Host values are natural numbers (DESIGN CHOICE, log entry
22), so no bit of `x` is lost. -/
def shiftInStep (x : Nat) (t : Word) : Nat := x <<< 1 ||| (t &&& 1).toNat

/-- The host assigns its own variable `x` (R78, R79); nothing of the block changes. -/
def assignX (x : Nat) (s : State) : State := { s with env := { s.env with x := x } }

/-- The host's turn (R53): it performs its next statement in program order, or has none to perform. An
assignment to `x` is a turn of its own, which leaves the block as it is (DESIGN CHOICE, log entry 22). -/
def hostTurn (run : Instr → State → Result) (s : State) : Result :=
  match nextStatement s with
  | some (.access a) => performAccess run a (takeStatement s)
  | some (.poll addr mask val) => performPoll addr mask val s
  | some .clearX => .next (assignX 0 (takeStatement s))
  | some .shiftX => .next (assignX (shiftInStep s.env.x s.env.rdata) (takeStatement s))
  | none => .next (takeStatement s)

/-- Whose turn it is (R53): the queued turn, or a free value. -/
def drawTurn (s : State) : Turn × State :=
  match s.env.turns with
  | t :: rest => (t, { s with env := { s.env with turns := rest } })
  | [] => (Config.freeTurn s.env.drawn, { s with env := { s.env with drawn := s.env.drawn + 1 } })

/-- The sequencer's turn (R34), with `run` for what the block does with a command: the running command's
next micro-action; an idle block does nothing (R143). -/
def sequencerTurn (run : Instr → State → Result) (s : State) : Result :=
  match runningCommand s.seq with
  | some i => run i s
  | none => .next s

end Sys2Proof.Machine
end

