-- ==== Sys2Proof/Machine/HostProgram.lean ====
section
/-! DEFINITION. The host's side of the interface (30_encoding.md rules R77, R78, R79): its statements and
the expansions of its pseudo-instructions. Of the host's own variables, which are not the block's (R78), `Env` holds
`t` as `rdata` and the `x` of `SHIFT_IN`. -/

namespace Sys2Proof.Machine

/-- `W reg, imm` (R78). -/
def hostW (base : Nat) (r : Reg) (imm : Word) : HostStmt := .access (.write (base + regOffset r) 4 imm)

/-- `x = R reg` (R78); the value read stands in `Env.rdata` after the access. -/
def hostR (base : Nat) (r : Reg) : HostStmt := .access (.read (base + regOffset r) 4)

/-- `POLL reg, mask, val` (R78). -/
def hostPoll (base : Nat) (r : Reg) (mask val : Word) : HostStmt :=
  .poll (base + regOffset r) mask val

/-- A command statement: `W CMD, CW` (R77). -/
def hostCommand (base : Nat) (i : Instr) : HostStmt := hostW base .cmd (encode i)

/-- The pseudo-instructions of R79. The host value `v` of `SHIFT_OUT` is a natural number, so it has a bit v[i]
for every i (DESIGN CHOICE, log entry 22: R79 states no width). -/
inductive Pseudo where
  | waitDone
  | ackDone
  | ackKey
  | ackSw
  | cancel
  | uncancel
  | shiftOut (n v : Nat)
  | shiftIn (n : Nat)
  deriving DecidableEq, Repr

/-- The bit v[i] of a host value (R79). -/
def hostBit (v i : Nat) : Bit := BitVec.ofNat 1 (v >>> i)

/-- `SHIFT_OUT n, v`: for i = n-1 down to 0, `SEND_BIT v[i]` and `WAITDONE` (R79). -/
def shiftOut (base v : Nat) : Nat → List HostStmt
  | 0 => []
  | n + 1 =>
    hostCommand base (.sendBit (hostBit v n)) :: hostPoll base .status 0x1 0x0 :: shiftOut base v n

/-- The repeated part of `SHIFT_IN n`: n times `RECV_BIT`, `WAITDONE`, `t = R RXBIT`,
`x = (x << 1) | (t & 1)` (R79). -/
def shiftInBits (base : Nat) : Nat → List HostStmt
  | 0 => []
  | n + 1 =>
    hostCommand base .recvBit :: hostPoll base .status 0x1 0x0 :: hostR base .rxbit :: .shiftX ::
      shiftInBits base n

/-- The expansion of a pseudo-instruction into host statements (R79). -/
def expand (base : Nat) : Pseudo → List HostStmt
  | .waitDone => [hostPoll base .status 0x1 0x0]
  | .ackDone => [hostW base .status 0x2]
  | .ackKey => [hostW base .status 0x100]
  | .ackSw => [hostW base .status 0x400]
  | .cancel => [hostW base .ctrl 0x1]
  | .uncancel => [hostW base .ctrl 0x0]
  | .shiftOut n v => shiftOut base v n
  | .shiftIn n => .clearX :: shiftInBits base n

end Sys2Proof.Machine
end

