-- ==== Sys2Proof/Machine/Step.lean ====
section
/-! DEFINITION. One step of the machine: one micro-action of the sequencer, one host access, or reset
(00_scope.md rule R6, 20_memory.md rules R53, R57). -/

namespace Sys2Proof.Machine

/-- One step (R53): the agent whose turn it is moves. -/
def step (s : State) : Host.Outcome State Fault Refusal :=
  match drawTurn s with
  | (.seq, s') => sequencerTurn exec s'
  | (.host, s') => hostTurn exec s'
  | (.rst, s') => .next (assertReset s')

/-- `s` with a command at the point where the block takes its next one: the host's next access is the
write of the command word to `CMD` (R58, R77), and the next turn is the host's. A block that runs a
command takes none (R66), so `SEQ` is made IDLE and `BUSY` 0. -/
def State.withFetchWord (s : State) (nbits w : Nat) : State :=
  { s with
    regs := { s.regs with status := { s.regs.status with busy := 0 } }
    seq := .idle
    env :=
      { s.env with
        host := hostW s.params.base .cmd (tableWord nbits w) :: s.env.host
        turns := .host :: s.env.turns } }

end Sys2Proof.Machine
end

