-- ==== Sys2Proof/Machine/Run.lean ====
section
/-! DEFINITION. Several micro-actions of one command with no host access between them. -/

namespace Sys2Proof.Machine

/-- `k` times what the block does next with the command `i` (R34: one micro-action per sequencer step). -/
def execN (k : Nat) (i : Instr) (s : State) : Result :=
  match k with
  | 0 => .next s
  | k + 1 =>
    match exec i s with
    | .next s' => execN k i s'
    | .fault f => .fault f
    | .refused r => .refused r

end Sys2Proof.Machine
end

