-- ==== Sys2Proof/Safety.lean ====
section
/-! DEFINITION. What every run of the block keeps: for each sequencer position, which lines are owned and
which levels the clock, the chip select and the keypad rows have; and how the registers agree with the
position. -/

namespace Sys2Proof.Machine

/-! ### What a position says about ownership (R35, R130 and the acquisition order of each command rule) -/

/-- Lines 0 to n-1 of four are owned in direction `d`. -/
def firstOwned (n : Nat) (d : Dir) : Four (Option Dir) where
  at0 := if 0 < n then some d else .none
  at1 := if 1 < n then some d else .none
  at2 := if 2 < n then some d else .none
  at3 := if 3 < n then some d else .none

/-- The serial lines owned in the course of an acquisition. -/
def serialOwn (csN sclk sdo sdi : Option Dir) : Own :=
  { Own.empty with csN := csN, sclk := sclk, sdo := sdo, sdi := sdi }

/-- The switch lines owned in the course of an acquisition. -/
def switchOwn (swIn ind0 ind1 : Option Dir) : Own :=
  { Own.empty with swIn := swIn, ind0 := ind0, ind1 := ind1 }

/-- The keypad lines owned after `rows` row and `columns` column acquisitions. -/
def keypadOwn (rows columns : Nat) : Own :=
  { Own.empty with krow := firstOwned rows .output, kcol := firstOwned columns .input }

def sendBitOwn : SendBitPos → Own
  | .acquireClock => Own.empty
  | .acquireData => serialOwn .none (some .output) .none .none
  | .send _ => serialOwn .none (some .output) (some .output) .none
  | .finish => serialOwn .none (some .output) (some .output) .none

def recvBitOwn : RecvBitPos → Own
  | .acquireClock => Own.empty
  | .acquireData => serialOwn .none (some .output) .none .none
  | .recv _ => serialOwn .none (some .output) .none (some .input)
  | .finish _ => serialOwn .none (some .output) .none (some .input)

def adcOwn : AdcPos → Own
  | .acquireSelect => Own.empty
  | .acquireClock => serialOwn (some .output) .none .none .none
  | .acquireOut => serialOwn (some .output) (some .output) .none .none
  | .acquireIn => serialOwn (some .output) (some .output) (some .output) .none
  | _ => serialOwn (some .output) (some .output) (some .output) (some .input)

def dhtOwn : DhtPos → Own
  | .acquireOut => Own.empty
  | .driveLow => { Own.empty with dht := some .output }
  | .holdLow => { Own.empty with dht := some .output }
  | .driveHigh => { Own.empty with dht := some .output }
  | .holdHigh => { Own.empty with dht := some .output }
  | .acquireIn => { Own.empty with dht := some .output }
  | _ => { Own.empty with dht := some .input }

def keypadPosOwn : KeypadPos → Own
  | .acquireRow r => keypadOwn r.val 0
  | .acquireColumn c => keypadOwn 4 c.val
  | _ => keypadOwn 4 4

def tiltOwn : TiltPos → Own
  | .acquireSwitch => Own.empty
  | .acquireInd0 => switchOwn (some .input) .none .none
  | .acquireInd1 => switchOwn (some .input) (some .output) .none
  | _ => switchOwn (some .input) (some .output) (some .output)

def slideOwn : SlidePos → Own
  | .acquireSwitch => Own.empty
  | .acquireInd0 => switchOwn (some .input) .none .none
  | .acquireInd1 => switchOwn (some .input) (some .output) .none
  | _ => switchOwn (some .input) (some .output) (some .output)

/-- `OWN` as the sequencer position determines it (R35). -/
def ownAt : Seq → Own
  | .idle => Own.empty
  | .sendBit _ p => sendBitOwn p
  | .recvBit p => recvBitOwn p
  | .adcRead _ p => adcOwn p
  | .dhtRead p => dhtOwn p
  | .keypadRun p => keypadPosOwn p
  | .tiltRun p => tiltOwn p
  | .slideRun _ _ p => slideOwn p

/-! ### What a position says about port levels -/

/-- The next micro-action of a SendBit falls in its low phase (R81, R83). -/
def sendLow : SendPos → Bool
  | .clockLow => false
  | .holdLow => true
  | .data => true
  | .clockHigh => true
  | .holdHigh => false

/-- The next micro-action of a RecvBit falls in its low phase (R82, R83). -/
def recvLow : RecvPos → Bool
  | .clockLow => false
  | .holdLow => true
  | .sample => true
  | .clockHigh _ => true
  | .holdHigh _ => false

/-- `SCLK` is in the low phase of a clock period at this position (R81, R82, R87). -/
def clockLowAt : Seq → Bool
  | .sendBit _ (.send p) => sendLow p
  | .recvBit (.recv p) => recvLow p
  | .adcRead _ (.header _ p) => sendLow p
  | .adcRead _ (.msbPath _ p) => recvLow p
  | .adcRead _ (.lsbPath _ p) => recvLow p
  | _ => false

/-- `CS_N` is asserted at this position: from step 1 to step 6 of ADC_READ (R89, R97). -/
def selectedAt : Seq → Bool
  | .adcRead _ .holdSelected => true
  | .adcRead _ (.header _ _) => true
  | .adcRead _ .startMsb => true
  | .adcRead _ (.msbPath _ _) => true
  | .adcRead _ (.msbGot _ _) => true
  | .adcRead _ (.sharedGot _) => true
  | .adcRead _ (.lsbPath _ _) => true
  | .adcRead _ (.lsbGot _ _) => true
  | _ => false

/-- The levels of `KROW` at this position: at most one row is high (R109). -/
def rowsAt : Seq → BitVec 4
  | .keypadRun (.rowHold r) => 1#4 <<< r.val
  | .keypadRun (.firstColumn r) => 1#4 <<< r.val
  | .keypadRun (.seen r _ _) => 1#4 <<< r.val
  | _ => 0

/-- The loop index of a WaitLevel stays within `N_WAIT` (R98). -/
def waitWithin (nWait : Nat) : WaitPos → Bool
  | .poll i => i ≤ nWait
  | .seen i _ => i < nWait

/-- The loop index of the WaitLevel at this position, if any, stays within `N_WAIT` (R98). -/
def waitAt (nWait : Nat) : Seq → Bool
  | .dhtRead (.wait _ p) => waitWithin nWait p
  | _ => true

/-! ### The invariant -/

/-- `VALID` of the running command's result register is 0 (R26, R27, R29, R148). -/
def resultInvalid (r : Regs) : Seq → Prop
  | .recvBit _ => r.rxbit.valid = 0
  | .adcRead _ _ => r.adcData.valid = 0
  | .dhtRead _ => r.dhtCsum.valid = 0
  | _ => True

/-- `KEY_CUR.CUR` equals `prev` while KEYPAD_RUN runs (R31). -/
def keyCurIsPrev (r : Regs) (w : Work) : Seq → Prop
  | .keypadRun _ => r.keyCur = w.prev
  | _ => True

/-- What holds in every state a run of the block reaches. -/
structure State.Inv (s : State) : Prop where
  /-- `BUSY` is 1 exactly while a command runs (R25, R34, R40). -/
  busy : s.regs.status.busy = 1 ↔ s.seq ≠ .idle
  /-- While a command runs, `DONE` is 0 and `ERR` is NONE (R25, R66, R130). -/
  pending : s.regs.status.busy = 1 → s.regs.status.done = 0 ∧ s.regs.status.err = .none
  /-- The running command is the one `CMD` holds (R23, R58). -/
  coherent : ∀ i, runningCommand s.seq = some i → decode s.regs.cmd = .ok i
  /-- The owned lines are those the position has acquired; none while idle (R35). -/
  owned : s.own = ownAt s.seq
  /-- The DHT line is driven exactly while owned as an output (R20). -/
  driven : s.ports.dhtOe = 1 ↔ s.own.dht = some .output
  /-- `SCLK` is 0 exactly in the low phase of a clock period, so 1 whenever the block is idle (R87). -/
  clock : s.ports.sclk = if clockLowAt s.seq then 0 else 1
  /-- `CS_N` is 0 exactly from step 1 to step 6 of ADC_READ (R97). -/
  select : s.ports.csN = if selectedAt s.seq then 0 else 1
  /-- At most one keypad row is high, and only while its columns are read (R109). -/
  rows : s.ports.krow = rowsAt s.seq
  /-- A key event is pending exactly while `KEY_NEW` is not empty (R30, R112). -/
  keyEvent : s.regs.status.keyEvt = 1 ↔ s.regs.keyNew ≠ 0
  /-- `KEY_CUR` equals `prev` while KEYPAD_RUN runs (R31). -/
  keyCur : keyCurIsPrev s.regs s.work s.seq
  /-- The running command's result register is not `VALID` (R148). -/
  invalid : resultInvalid s.regs s.seq
  /-- A WaitLevel's index stays within `N_WAIT` (R98). -/
  waits : waitAt s.params.nWait s.seq = true
  /-- A frame shown as `VALID` has the sum of its first four bytes, modulo 256, as its checksum (R103). -/
  checked : s.regs.dhtCsum.valid = 1 →
    (s.regs.dhtData.humInt.toNat + s.regs.dhtData.humDec.toNat + s.regs.dhtData.tempInt.toNat +
        s.regs.dhtData.tempDec.toNat) % 256 = s.regs.dhtCsum.csum.toNat

/-- The line a position acquires, with its direction, if its micro-action is an `Acquire` (R85, R86, R90,
R99, R110, R117, R120). -/
def acquiresAt : Seq → Option (Line × Dir)
  | .sendBit _ .acquireClock => some (.sclk, .output)
  | .sendBit _ .acquireData => some (.sdo, .output)
  | .recvBit .acquireClock => some (.sclk, .output)
  | .recvBit .acquireData => some (.sdi, .input)
  | .adcRead _ .acquireSelect => some (.csN, .output)
  | .adcRead _ .acquireClock => some (.sclk, .output)
  | .adcRead _ .acquireOut => some (.sdo, .output)
  | .adcRead _ .acquireIn => some (.sdi, .input)
  | .dhtRead .acquireOut => some (.dht, .output)
  | .dhtRead .acquireIn => some (.dht, .input)
  | .keypadRun (.acquireRow r) => some (.krow r, .output)
  | .keypadRun (.acquireColumn c) => some (.kcol c, .input)
  | .tiltRun .acquireSwitch => some (.swIn, .input)
  | .tiltRun .acquireInd0 => some (.ind0, .output)
  | .tiltRun .acquireInd1 => some (.ind1, .output)
  | .slideRun _ _ .acquireSwitch => some (.swIn, .input)
  | .slideRun _ _ .acquireInd0 => some (.ind0, .output)
  | .slideRun _ _ .acquireInd1 => some (.ind1, .output)
  | _ => none

/-- Where a command stands once the `Acquire` at a position is granted: the next acquisition of its program,
or the first micro-action after the last one. Any other position stays (R85, R86, R90, R99, R110, R117, R120). -/
def onceGranted : Seq → Seq
  | .sendBit v .acquireClock => .sendBit v .acquireData
  | .sendBit v .acquireData => .sendBit v (.send .clockLow)
  | .recvBit .acquireClock => .recvBit .acquireData
  | .recvBit .acquireData => .recvBit (.recv .clockLow)
  | .adcRead ch .acquireSelect => .adcRead ch .acquireClock
  | .adcRead ch .acquireClock => .adcRead ch .acquireOut
  | .adcRead ch .acquireOut => .adcRead ch .acquireIn
  | .adcRead ch .acquireIn => .adcRead ch .selectLow
  | .dhtRead .acquireOut => .dhtRead .driveLow
  | .dhtRead .acquireIn => .dhtRead (.wait (.handshake 0) (.poll 0))
  | .keypadRun (.acquireRow 0) => .keypadRun (.acquireRow 1)
  | .keypadRun (.acquireRow 1) => .keypadRun (.acquireRow 2)
  | .keypadRun (.acquireRow 2) => .keypadRun (.acquireRow 3)
  | .keypadRun (.acquireRow 3) => .keypadRun (.acquireColumn 0)
  | .keypadRun (.acquireColumn 0) => .keypadRun (.acquireColumn 1)
  | .keypadRun (.acquireColumn 1) => .keypadRun (.acquireColumn 2)
  | .keypadRun (.acquireColumn 2) => .keypadRun (.acquireColumn 3)
  | .keypadRun (.acquireColumn 3) => .keypadRun .top
  | .tiltRun .acquireSwitch => .tiltRun .acquireInd0
  | .tiltRun .acquireInd0 => .tiltRun .acquireInd1
  | .tiltRun .acquireInd1 => .tiltRun .firstSample
  | .slideRun i0 i1 .acquireSwitch => .slideRun i0 i1 .acquireInd0
  | .slideRun i0 i1 .acquireInd0 => .slideRun i0 i1 .acquireInd1
  | .slideRun i0 i1 .acquireInd1 => .slideRun i0 i1 .driveStart
  | q => q

/-- The level of an output line on its port; nothing for an input line (R17). -/
def portLevel (p : Ports) : Line → Option Bit
  | .sclk => some p.sclk
  | .sdo => some p.sdo
  | .csN => some p.csN
  | .dht => some p.dhtO
  | .krow r => some (p.krow.extractLsb' r.val 1)
  | .ind0 => some p.ind0
  | .ind1 => some p.ind1
  | _ => none

/-! ### Where the bounded waits and the clock periods stand, for statements about them -/

/-- The answers of the environment to a WaitLevel that returns `n`: `n` times not L, then L (R98). -/
def waitAnswers (level : Bit) (n : Nat) : List Bit := List.replicate n (~~~level) ++ [level]

/-- The answers of the environment to a whole DHT_READ whose waits return the counts `h` (handshake), `a`
(start of bit j of byte k) and `n` (its pulse) (R100, R101, R102). -/
def dhtAnswers (h : Fin 3 → Nat) (a n : Fin 5 → Fin 8 → Nat) : List Bit :=
  (List.finRange 3).flatMap (fun k => waitAnswers (WaitSite.level (.handshake k)) (h k)) ++
    (List.finRange 5).flatMap fun k =>
      (List.finRange 8).flatMap fun j => waitAnswers 0 (a k j) ++ waitAnswers 1 (n k j)

/-- The levels an SW_IN sees in a run of `m` clean edges from the reference `last` (R115). -/
def edges (last : Bit) : Nat → List Bit
  | 0 => []
  | m + 1 => ~~~last :: edges (~~~last) m

/-- The outcome codes a command can end with (R123). -/
def possibleErr : Instr → List ErrCode
  | .sendBit _ => [.none, .lineAcq]
  | .recvBit => [.none, .lineAcq]
  | .adcRead _ => [.none, .lineAcq, .sampleDisagree]
  | .dhtRead => [.none, .lineAcq, .timeout, .checksum]
  | .keypadRun => [.none, .lineAcq]
  | .tiltRun => [.none, .lineAcq]
  | .slideRun _ _ => [.none, .lineAcq]

/-- A host statement whose access the block does not admit (R43, R44, R51). -/
def badAccess (base : Nat) : HostStmt → Prop
  | .access (.read addr width) =>
    addr < base ∨ base + 0x3F < addr ∨ width ≠ 4 ∨ (addr - base) % 4 ≠ 0
  | .access (.write addr width _) =>
    addr < base ∨ base + 0x3F < addr ∨ width ≠ 4 ∨ (addr - base) % 4 ≠ 0
  | .poll addr _ _ => addr < base ∨ base + 0x3F < addr ∨ (addr - base) % 4 ≠ 0
  | .clearX => False
  | .shiftX => False

end Sys2Proof.Machine
end

