-- ==== Sys2Proof/Certificates/Slice0/Obligations.lean ====
section
/-! DEFINITION. The statements about the model, made from the numbered rules of the spec. The answers of the
environment, the host's accesses and the turns come from queues of the model (log entries 2 to 5); `held`
records the bounds of the holds, as R15 allows (log entry 12). Where a statement writes out a whole next state,
a whole run or a frame, it also says that the working registers of R37 to R39 keep their values at a completion
and outside their own command: that clause is the model's choice (log entry 23) and formalises no rule. -/

open Sys2Proof Sys2Proof.Machine

/-! ### The command word (30_encoding.md) -/

/-- Decoding and encoding agree both ways: a word decodes to a command exactly when it is that command's
encoding, whatever the operands (R61 to R64, R77). -/
def Obligations.DecodesExactlyItsEncoding : Prop :=
  ∀ (w : Word) (i : Instr), decode w = .ok i ↔ w = encode i

/-- R68: every word is one of the seven commands when it is legal and ILLEGAL otherwise; each row's match
and mask in spec/opcode_table.json selects exactly the words of its command. -/
def Obligations.EveryWordIsOneCommandOrIllegal : Prop :=
  (∀ w : Word,
      if legal w then (∃ i, decode w = .ok i) ∧ ∀ r, decode w ≠ .error r
      else (∃ r, decode w = .error r) ∧ ∀ i, decode w ≠ .ok i) ∧
    ∀ w : Word,
      ((∃ v, decode w = .ok (.sendBit v)) ↔ w &&& 0xFFFFFFEF#32 = 0x1#32) ∧
        (decode w = .ok .recvBit ↔ w &&& 0xFFFFFFFF#32 = 0x2#32) ∧
        ((∃ ch, decode w = .ok (.adcRead ch)) ↔ w &&& 0xFFFFFFCF#32 = 0x3#32) ∧
        (decode w = .ok .dhtRead ↔ w &&& 0xFFFFFFFF#32 = 0x4#32) ∧
        (decode w = .ok .keypadRun ↔ w &&& 0xFFFFFFFF#32 = 0x5#32) ∧
        (decode w = .ok .tiltRun ↔ w &&& 0xFFFFFFFF#32 = 0x6#32) ∧
        ((∃ i0 i1, decode w = .ok (.slideRun i0 i1)) ↔ w &&& 0xFFFFFFCF#32 = 0x7#32)

/-- R64: a command word is legal exactly when its fields are as the formula of the rule says, and the legal
words are exactly these 14. -/
def Obligations.LegalWordsAreTheFourteen : Prop :=
  ∀ w : Word,
    (legal w = true ↔
      w.toNat / 2 ^ 8 = 0 ∧
        (w.toNat % 16 = 0x1 ∧ w.toNat / 2 ^ 5 % 8 = 0 ∨
          (w.toNat % 16 = 0x2 ∨ w.toNat % 16 = 0x4 ∨ w.toNat % 16 = 0x5 ∨ w.toNat % 16 = 0x6) ∧
            w.toNat / 2 ^ 4 % 16 = 0 ∨
          (w.toNat % 16 = 0x3 ∨ w.toNat % 16 = 0x7) ∧ w.toNat / 2 ^ 6 % 4 = 0)) ∧
    (legal w = true ↔
      w ∈ [0x01#32, 0x11#32, 0x02#32, 0x03#32, 0x13#32, 0x23#32, 0x33#32, 0x04#32, 0x05#32, 0x06#32,
        0x07#32, 0x17#32, 0x27#32, 0x37#32])

/-- Words written out from the encoding table decode to the command they stand for, and the illegal words
V-E3 to V-E12 of the test vectors to the reason they are illegal (R62 to R65). -/
def Obligations.WrittenOutWordsDecode : Prop :=
  decode 0x00000001#32 = .ok (.sendBit 0) ∧ decode 0x00000011#32 = .ok (.sendBit 1) ∧
    decode 0x00000002#32 = .ok .recvBit ∧ decode 0x00000033#32 = .ok (.adcRead 3) ∧
    decode 0x00000023#32 = .ok (.adcRead 2) ∧ decode 0x00000004#32 = .ok .dhtRead ∧
    decode 0x00000005#32 = .ok .keypadRun ∧ decode 0x00000006#32 = .ok .tiltRun ∧
    decode 0x00000017#32 = .ok (.slideRun 1 0) ∧ decode 0x00000027#32 = .ok (.slideRun 0 1) ∧
    decode 0x00000021#32 = .error .unusedArgument ∧ decode 0x00000012#32 = .error .unusedArgument ∧
    decode 0x00000043#32 = .error .unusedArgument ∧ decode 0x00000000#32 = .error .reservedOpcode ∧
    decode 0x00000008#32 = .error .reservedOpcode ∧ decode 0x0000000F#32 = .error .reservedOpcode ∧
    decode 0x00000104#32 = .error .reservedBits ∧ decode 0x80000005#32 = .error .reservedBits

/-- R77: a statement assembles to the word of its table, and to none if an operand is out of range. -/
def Obligations.AssemblerFollowsItsTable : Prop :=
  (∀ v, (Asm.sendBit v).word = if v ≤ 1 then some (BitVec.ofNat 32 (0x01 + v * 16)) else none) ∧
    Asm.recvBit.word = some 0x02#32 ∧
    (∀ ch, (Asm.adcRead ch).word =
      if ch ≤ 3 then some (BitVec.ofNat 32 (0x03 + ch * 16)) else none) ∧
    Asm.dhtRead.word = some 0x04#32 ∧ Asm.keypadRun.word = some 0x05#32 ∧
    Asm.tiltRun.word = some 0x06#32 ∧
    ∀ i0 i1, (Asm.slideRun i0 i1).word =
      if i0 ≤ 1 ∧ i1 ≤ 1 then some (BitVec.ofNat 32 (0x07 + i0 * 16 + i1 * 32)) else none

/-- R79: `SHIFT_OUT n, v` is `SEND_BIT v[i]` and `WAITDONE` for i from n-1 down to 0; `SHIFT_IN n` clears `x`
and n times receives a bit, waits, reads `RXBIT` and shifts the bit read into `x` from the right. That `v` and
`x` are natural numbers and an assignment to `x` is a turn of its own is the model's choice (log entry 22). -/
def Obligations.ShiftOutSendsBitsMsbFirst : Prop :=
  (∀ base n v : Nat,
    expand base (.shiftOut n v) =
      (List.range n).flatMap fun j =>
        [hostW base .cmd (encode (.sendBit (if v / 2 ^ (n - 1 - j) % 2 = 1 then 1 else 0))),
          hostPoll base .status 0x1 0x0]) ∧
    (∀ base n : Nat,
      expand base (.shiftIn n) =
        .clearX :: (List.range n).flatMap fun _ =>
          [hostW base .cmd (encode .recvBit), hostPoll base .status 0x1 0x0, hostR base .rxbit,
            .shiftX]) ∧
    ∀ (s : State) (ts : List Turn) (hs : List HostStmt), s.env.turns = .host :: ts →
      (s.env.host = .clearX :: hs →
        step s = .next { s with env := { s.env with turns := ts, host := hs, x := 0 } }) ∧
      (s.env.host = .shiftX :: hs →
        step s = .next
          { s with
            env :=
              { s.env with
                turns := ts
                host := hs
                x := 2 * s.env.x + s.env.rdata.toNat % 2 } })

/-! ### Issue and acceptance (R66, R67) -/

/-- R66: what a host write of `w` to `CMD` does, in each of its three cases. -/
def Obligations.CmdWriteIssuesCommand : Prop :=
  ∀ (s : State) (w : Word) (ts : List Turn) (hs : List HostStmt), s.Inv →
    s.env.turns = .host :: ts → s.env.host = hostW s.params.base .cmd w :: hs →
    (s.regs.status.busy = 1 →
      step s = .next
        { s with
          env := { s.env with turns := ts, host := hs }
          regs := { s.regs with status := { s.regs.status with cmdRej := 1 } } }) ∧
    (s.regs.status.busy ≠ 1 → legal w = false →
      step s = .next
        { s with
          env := { s.env with turns := ts, host := hs }
          regs :=
            { s.regs with
              cmd := w
              status := { s.regs.status with err := .illegalCmd, done := 1 } } }) ∧
    (s.regs.status.busy ≠ 1 → ∀ i, decode w = .ok i →
      ∃ t, step s = .next t ∧
        t.regs =
          { acceptanceClears i s.regs with
            cmd := w
            status :=
              { (acceptanceClears i s.regs).status with busy := 1, done := 0, err := .none } } ∧
        t.seq = startOf i ∧ t.ports = s.ports ∧ t.own = s.own ∧
        t.env = { s.env with turns := ts, host := hs })

/-- R67: an idle block that is given a command accepts it, and exactly these fields are cleared at that
step, before the first micro-action (with `BUSY`, `DONE`, `ERR` and `SEQ` as R66 says; the fresh working
registers and the time base are the model's, log entries 8 and 12). -/
def Obligations.AcceptanceClearsPerCommand : Prop :=
  ∀ s : State, s.seq = .idle →
    (∀ v, exec (.sendBit v) s = .next
      { s with
        regs := { s.regs with status := { s.regs.status with busy := 1, done := 0, err := .none } }
        seq := .sendBit v .acquireClock
        held := 0 }) ∧
    exec .recvBit s = .next
      { s with
        regs :=
          { s.regs with
            status := { s.regs.status with busy := 1, done := 0, err := .none }
            rxbit := { s.regs.rxbit with valid := 0 } }
        seq := .recvBit .acquireClock
        held := 0 } ∧
    (∀ ch, exec (.adcRead ch) s = .next
      { s with
        regs :=
          { s.regs with
            status := { s.regs.status with busy := 1, done := 0, err := .none }
            adcData := { s.regs.adcData with valid := 0 } }
        seq := .adcRead ch .acquireSelect
        work := { s.work with msb := 0, lsb := 0 }
        held := 0 }) ∧
    exec .dhtRead s = .next
      { s with
        regs :=
          { s.regs with
            status := { s.regs.status with busy := 1, done := 0, err := .none }
            dhtCsum := { s.regs.dhtCsum with valid := 0 } }
        seq := .dhtRead .acquireOut
        work := { s.work with frame := ⟨0, 0, 0, 0, 0⟩, byte := 0, n := 0 }
        held := 0 } ∧
    exec .keypadRun s = .next
      { s with
        regs :=
          { s.regs with
            status :=
              { s.regs.status with busy := 1, done := 0, err := .none, keyEvt := 0, keyOvr := 0 }
            keyNew := 0
            keyCur := 0 }
        seq := .keypadRun (.acquireRow 0)
        work := { s.work with cur := 0, prev := 0 }
        held := 0 } ∧
    exec .tiltRun s = .next
      { s with
        regs :=
          { s.regs with
            status := { s.regs.status with busy := 1, done := 0, err := .none, swEvt := 0 }
            evCount := 0 }
        seq := .tiltRun .acquireSwitch
        held := 0 } ∧
    ∀ i0 i1, exec (.slideRun i0 i1) s = .next
      { s with
        regs :=
          { s.regs with
            status := { s.regs.status with busy := 1, done := 0, err := .none, swEvt := 0 }
            evCount := 0 }
        seq := .slideRun i0 i1 .acquireSwitch
        held := 0 }

/-! ### Steps (20_memory.md section 3, 70_reset_and_hazards.md) -/

/-- A step runs the decoded command. On the host's turn, a write to `CMD` of a word that decodes to `i`,
with the block idle, is `exec` of `i` after the word is stored; on the sequencer's turn, the step is `exec`
of the running command. Around it a step only takes the turn and the host's statement from their queues. -/
def Obligations.StepRunsDecodedCommand : Prop :=
  (∀ (s : State) (w : Word) (i : Instr) (ts : List Turn) (hs : List HostStmt),
      s.env.turns = .host :: ts → s.env.host = hostW s.params.base .cmd w :: hs →
      s.regs.status.busy = 0 → decode w = .ok i →
      step s = exec i
        { s with
          env := { s.env with turns := ts, host := hs }
          regs := { s.regs with cmd := w } }) ∧
    ∀ (s : State) (i : Instr) (ts : List Turn),
      s.env.turns = .seq :: ts → runningCommand s.seq = some i →
      step s = exec i { s with env := { s.env with turns := ts } }

/-- R143: an idle block waits for a `CMD` write and runs nothing by itself. -/
def Obligations.IdleBlockRunsNothing : Prop :=
  ∀ (s : State) (ts : List Turn), s.env.turns = .seq :: ts → s.seq = .idle →
    step s = .next { s with env := { s.env with turns := ts } }

/-- R141: what an asserted `RST` does at once, to whatever command is running. That the environment, the host
and the parameters are kept is log entry 16. -/
def Obligations.ResetSetsEveryRegisterAndPort : Prop :=
  ∀ (s : State) (ts : List Turn), s.env.turns = .rst :: ts →
    ∃ t, step s = .next t ∧ (∀ r, regWord t r = 0) ∧
      t.regs.status = ⟨0, 0, 0, .none, 0, 0, 0⟩ ∧
      t.ports = { sclk := 1, sdo := 0, csN := 1, dhtO := 0, dhtOe := 0, krow := 0, ind0 := 0, ind1 := 0 } ∧
      t.seq = .idle ∧ (∀ l, t.own.get l = none) ∧ t.work.swLast = 0 ∧
      t.env = { s.env with turns := ts } ∧ t.params = s.params

/-- The state right after reset reads as V-H1 says: every register 0, the ports at the levels of R17, idle
(R17, R142). -/
def Obligations.ResetStateReadsZero : Prop :=
  (∀ r, regWord State.reset r = 0) ∧
    State.reset.ports =
      { sclk := 1, sdo := 0, csN := 1, dhtO := 0, dhtOe := 0, krow := 0, ind0 := 0, ind1 := 0 } ∧
    State.reset.seq = .idle ∧ (∀ l, State.reset.own.get l = none) ∧ State.reset.work.swLast = 0

/-- Every command, in every state of the block, has its effect: it is never a fault and never refused
(R129: no outcome leaves the block unable to accept a command). The block imposes no minimum interval between
commands (R153): a legal word written to `CMD` in the step right after a completion is accepted, whatever the
outcome was. What a command does while another one runs is log entry 14. -/
def Obligations.EveryCommandAnswersANextState : Prop :=
  (∀ (i : Instr) (s : State), ∃ t, exec i s = .next t) ∧
    ∀ (s t : State) (i j : Instr) (w : Word) (ts : List Turn) (hs : List HostStmt),
      runningCommand s.seq = some i → exec i s = .next t → t.seq = .idle →
      t.env.turns = .host :: ts → t.env.host = hostW t.params.base .cmd w :: hs →
      decode w = .ok j →
      ∃ u, step t = .next u ∧ u.seq = startOf j ∧ u.regs.cmd = w ∧ u.regs.status.busy = 1 ∧
        u.regs.status.cmdRej = s.regs.status.cmdRej

/-- A step stops only on a host access the block does not admit (R44, R51); it is never refused. -/
def Obligations.OnlyBadHostAccessStops : Prop :=
  ∀ s : State,
    (∀ f, step s = .fault f →
      (drawTurn s).1 = .host ∧
        ∃ h, nextStatement (drawTurn s).2 = some h ∧ badAccess s.params.base h) ∧
      ∀ r, step s ≠ .refused r

/-! ### The register window (20_memory.md, 10_state.md) -/

/-- R47: a read of any offset of the window returns its word and changes no state of the block, so a second
read with no write or micro-action in between returns the same word. -/
def Obligations.ReadsHaveNoSideEffects : Prop :=
  ∀ (s : State) (k : Fin 16) (ts : List Turn) (hs : List HostStmt),
    s.env.turns = .host :: ts →
    s.env.host = .access (.read (s.params.base + 4 * k.val) 4) :: hs →
    step s = .next
      { s with
        env := { s.env with turns := ts, host := hs, rdata := readOffset s (4 * k.val) } } ∧
    ∀ e : Env, readOffset { s with env := e } (4 * k.val) = readOffset s (4 * k.val)

/-- The words the registers read as have their fields at the bits of R23 to R32, and 0 elsewhere; `ERR` reads
as the code R123 gives each outcome. -/
def Obligations.RegisterWordsPlaceTheirFields : Prop :=
  ∀ s : State,
    readOffset s 0x00 = s.regs.cmd ∧
    (readOffset s 0x04).toNat =
      s.regs.status.busy.toNat + 2 * s.regs.status.done.toNat + 4 * s.regs.status.cmdRej.toNat +
        16 *
            (match s.regs.status.err with
              | .none => 0
              | .lineAcq => 1
              | .timeout => 2
              | .checksum => 3
              | .sampleDisagree => 4
              | .illegalCmd => 5) +
        256 * s.regs.status.keyEvt.toNat +
        512 * s.regs.status.keyOvr.toNat + 1024 * s.regs.status.swEvt.toNat ∧
    (readOffset s 0x08).toNat = s.regs.cancel.toNat ∧
    (readOffset s 0x0C).toNat = s.regs.rxbit.bit.toNat + 2 ^ 31 * s.regs.rxbit.valid.toNat ∧
    (readOffset s 0x10).toNat =
      s.regs.adcData.sample.toNat + 256 * s.regs.adcData.ch.toNat +
        2 ^ 31 * s.regs.adcData.valid.toNat ∧
    (readOffset s 0x14).toNat =
      s.regs.dhtData.humInt.toNat + 256 * s.regs.dhtData.humDec.toNat +
        2 ^ 16 * s.regs.dhtData.tempInt.toNat + 2 ^ 24 * s.regs.dhtData.tempDec.toNat ∧
    (readOffset s 0x18).toNat =
      s.regs.dhtCsum.csum.toNat + 2 ^ 31 * s.regs.dhtCsum.valid.toNat ∧
    (readOffset s 0x1C).toNat = s.regs.keyNew.toNat ∧
    (readOffset s 0x20).toNat = s.regs.keyCur.toNat ∧
    (readOffset s 0x24).toNat =
      s.work.swLast.toNat + 2 * s.ports.ind0.toNat + 4 * s.ports.ind1.toNat +
        256 * s.regs.evCount.toNat

/-- R45: byte lane k of a word carries bits 8k+7 to 8k, so the four lanes give the word back, and lane k of
`DHT_DATA` is frame byte k (R28). -/
def Obligations.ByteLanesAreLittleEndian : Prop :=
  (∀ (w : Word) (k b : Nat), k < 4 → b < 8 → (byteLane w k).getLsbD b = w.getLsbD (8 * k + b)) ∧
    (∀ w : Word, ofLanes (byteLane w 0) (byteLane w 1) (byteLane w 2) (byteLane w 3) = w) ∧
    ∀ s : State,
      byteLane (regWord s .dhtData) 0 = s.regs.dhtData.humInt ∧
        byteLane (regWord s .dhtData) 1 = s.regs.dhtData.humDec ∧
        byteLane (regWord s .dhtData) 2 = s.regs.dhtData.tempInt ∧
        byteLane (regWord s .dhtData) 3 = s.regs.dhtData.tempDec

/-- R50: the reserved offsets read 0, and a write to one is ignored. -/
def Obligations.ReservedOffsetsReadZeroAndIgnoreWrites : Prop :=
  ∀ (s : State) (k : Fin 6) (w : Word) (ts : List Turn) (hs : List HostStmt),
    s.env.turns = .host :: ts →
    (s.env.host = .access (.read (s.params.base + 0x28 + 4 * k.val) 4) :: hs →
      step s = .next
        { s with env := { s.env with turns := ts, host := hs, rdata := 0x00000000#32 } }) ∧
    (s.env.host = .access (.write (s.params.base + 0x28 + 4 * k.val) 4 w) :: hs →
      step s = .next { s with env := { s.env with turns := ts, host := hs } })

/-- R44: in the window, an access that is narrow, wide or misaligned is a bus error, a fault of the host
program; outside the window nothing is decoded (R51). -/
def Obligations.BadAccessesFault : Prop :=
  ∀ (s : State) (addr width : Nat) (w : Word) (ts : List Turn) (hs : List HostStmt),
    s.env.turns = .host :: ts →
    (s.env.host = .access (.read addr width) :: hs ∨
      s.env.host = .access (.write addr width w) :: hs) →
    (s.params.base ≤ addr → addr ≤ s.params.base + 0x3F →
      (width ≠ 4 ∨ (addr - s.params.base) % 4 ≠ 0) → step s = .fault .busError) ∧
    ((addr < s.params.base ∨ s.params.base + 0x3F < addr) → step s = .fault .notDecoded)

/-- R25: a write to `STATUS` clears the W1C bits written as 1 and leaves the others, `BUSY` and `ERR`;
writing 1 to `KEY_EVT` also clears `KEY_NEW.NEW` (R48). A write to `CTRL` sets `CANCEL` to bit 0 (R24), and
a write to a read-only register changes nothing (R49). -/
def Obligations.WritesHaveOnlyTheirSideEffects : Prop :=
  ∀ (s : State) (w : Word) (ts : List Turn) (hs : List HostStmt),
    s.env.turns = .host :: ts →
    (s.env.host = hostW s.params.base .status w :: hs →
      step s = .next
        { s with
          env := { s.env with turns := ts, host := hs }
          regs :=
            { s.regs with
              status :=
                { busy := s.regs.status.busy
                  done := if w.getLsbD 1 then 0 else s.regs.status.done
                  cmdRej := if w.getLsbD 2 then 0 else s.regs.status.cmdRej
                  err := s.regs.status.err
                  keyEvt := if w.getLsbD 8 then 0 else s.regs.status.keyEvt
                  keyOvr := if w.getLsbD 9 then 0 else s.regs.status.keyOvr
                  swEvt := if w.getLsbD 10 then 0 else s.regs.status.swEvt }
              keyNew := if w.getLsbD 8 then 0 else s.regs.keyNew } }) ∧
    (s.env.host = hostW s.params.base .ctrl w :: hs →
      step s = .next
        { s with
          env := { s.env with turns := ts, host := hs }
          regs := { s.regs with cancel := if w.getLsbD 0 then 1 else 0 } }) ∧
    ∀ r ∈ [Reg.rxbit, .adcData, .dhtData, .dhtCsum, .keyNew, .keyCur, .swState],
      s.env.host = hostW s.params.base r w :: hs →
      step s = .next { s with env := { s.env with turns := ts, host := hs } }

/-- R78: `POLL` reads, and the host goes on exactly when the masked value is the one awaited. -/
def Obligations.PollReadsUntilTheValue : Prop :=
  ∀ (s : State) (r : Reg) (mask val : Word) (ts : List Turn) (hs : List HostStmt),
    s.env.turns = .host :: ts → s.env.host = hostPoll s.params.base r mask val :: hs →
    step s = .next
      { s with
        env :=
          { s.env with
            turns := ts
            host := if regWord s r &&& mask = val then hs else s.env.host
            rdata := regWord s r } }

/-- No host access disturbs the running command (R57, R58, R132 (d)): whatever the host does on its turn,
`SEQ`, `OWN`, the ports, the working registers, `CMD`, `BUSY` and the result registers stay. -/
def Obligations.HostAccessLeavesRunningCommandAlone : Prop :=
  ∀ (s t : State) (ts : List Turn), s.env.turns = .host :: ts → s.regs.status.busy = 1 →
    step s = .next t →
    t.seq = s.seq ∧ t.own = s.own ∧ t.ports = s.ports ∧ t.work = s.work ∧ t.held = s.held ∧
      t.regs.cmd = s.regs.cmd ∧ t.regs.status.busy = 1 ∧ t.regs.status.err = s.regs.status.err ∧
      t.regs.rxbit = s.regs.rxbit ∧ t.regs.adcData = s.regs.adcData ∧
      t.regs.dhtData = s.regs.dhtData ∧ t.regs.dhtCsum = s.regs.dhtCsum ∧
      t.regs.keyCur = s.regs.keyCur ∧ t.regs.evCount = s.regs.evCount ∧
      t.env.levels = s.env.levels ∧ t.env.grants = s.env.grants ∧ t.params = s.params

/-! ### Invariants of every step -/

/-- The reset state meets the invariant. -/
def Obligations.ResetMeetsInvariant : Prop :=
  State.reset.Inv

/-- Every step keeps the invariant: `BUSY` follows `SEQ`; the owned lines, `SCLK`, `CS_N` and `KROW` are
those of the position; the DHT line is driven only while owned as output; the running command is the one
`CMD` holds and its result is not `VALID`; key events and `KEY_NEW` agree; no wait exceeds `N_WAIT`; a frame
shown as `VALID` has the right checksum (R20, R31, R34, R35, R58, R87, R97, R98, R103, R109, R148). -/
def Obligations.EveryStepKeepsInvariant : Prop :=
  ∀ s t : State, s.Inv → step s = .next t → t.Inv

/-- R81: `SDO` changes only while `SCLK` = 0, and `SCLK` stays 0 at that step: the line is stable at both
clock edges. (Reset, R144, is the one exception.) -/
def Obligations.SdoChangesOnlyInTheLowPhase : Prop :=
  ∀ (s t : State), s.Inv → (drawTurn s).1 ≠ .rst → step s = .next t →
    t.ports.sdo ≠ s.ports.sdo → s.ports.sclk = 0 ∧ t.ports.sclk = 0

/-- A port level changes only on a line the running command owns as an output (R11, R35). (Reset is the one
exception; `DHT_OE` is no level of its own: it follows `OWN`, as EveryStepKeepsInvariant says.) -/
def Obligations.OnlyOwnedOutputsChange : Prop :=
  ∀ (s t : State) (l : Line), s.Inv → (drawTurn s).1 ≠ .rst → step s = .next t →
    portLevel t.ports l ≠ portLevel s.ports l → s.own.get l = some .output

/-! ### Acquisition and completion (R12, R124, R130) -/

/-- An `Acquire` that is answered `ok` owns the line with its direction and drives nothing; only the DHT
line's `DHT_OE` follows the direction (R11, R20). The command goes on at the next acquisition of its program,
or, after the last one, at what the program does first (R85, R86, R90, R99, R110, R117, R120). -/
def Obligations.GrantedAcquireOwnsTheLine : Prop :=
  ∀ (s : State) (i : Instr) (l : Line) (d : Dir) (gs : List Grant),
    runningCommand s.seq = some i → acquiresAt s.seq = some (l, d) → s.env.grants = .ok :: gs →
    ∃ t, exec i s = .next t ∧ t.own = s.own.set l (some d) ∧ t.seq = onceGranted s.seq ∧
      runningCommand t.seq = some i ∧
      t.ports =
        { s.ports with
          dhtOe := if l = .dht then (if d = .output then 1 else 0) else s.ports.dhtOe } ∧
      t.regs = s.regs ∧ t.work = s.work ∧ t.held = s.held ∧
      t.env = { s.env with grants := gs }

/-- R124: an `Acquire` that is answered `fail` ends the command with LINE_ACQ: only the code is recorded, no
port is driven, the DHT line is released if it was owned, and nothing stays owned. That the failing `Acquire`
and this end are one micro-action is log entry 9. -/
def Obligations.FailedAcquireEndsWithLineAcq : Prop :=
  ∀ (s : State) (i : Instr) (l : Line) (d : Dir) (gs : List Grant),
    runningCommand s.seq = some i → acquiresAt s.seq = some (l, d) → s.env.grants = .fail :: gs →
    exec i s = .next
      { s with
        regs := { s.regs with status := { s.regs.status with err := .lineAcq, busy := 0, done := 1 } }
        ports :=
          { s.ports with dhtOe := if s.own.get .dht = none then s.ports.dhtOe else 0 }
        seq := .idle
        own := Own.empty
        env := { s.env with grants := gs } }

/-- R130: the micro-action that ends a command releases every line, leaves the output ports at their level
(the DHT line released), sets `BUSY` 0 and `DONE` 1 with the outcome, and writes results only with NONE; no
micro-action before it touches `BUSY`, `DONE`, `ERR` or `CMD_REJ`. -/
def Obligations.CompletionIsOneStep : Prop :=
  ∀ (s t : State) (i : Instr), runningCommand s.seq = some i → exec i s = .next t →
    if t.seq = .idle then
      t.regs.status =
          { s.regs.status with err := t.regs.status.err, busy := 0, done := 1 } ∧
        (∀ l, t.own.get l = none) ∧
        t.ports = { s.ports with dhtOe := if s.own.get .dht = none then s.ports.dhtOe else 0 } ∧
        (t.regs.status.err ≠ .none → t.regs = { s.regs with status := t.regs.status }) ∧
        t.regs.status.err ∈ possibleErr i
    else
      t.regs.status.busy = s.regs.status.busy ∧ t.regs.status.done = s.regs.status.done ∧
        t.regs.status.err = s.regs.status.err ∧ t.regs.status.cmdRej = s.regs.status.cmdRej

/-- No partial result is ever visible (R27, R28, R67, R148): in a step that is not a reset, a data field of a
result register changes only at a completion with NONE, and then its `VALID` is 1. -/
def Obligations.ResultDataChangesOnlyAtSuccess : Prop :=
  ∀ s t : State, (drawTurn s).1 ≠ .rst → step s = .next t → s.Inv →
    (t.regs.rxbit.bit ≠ s.regs.rxbit.bit ∨ t.regs.adcData.sample ≠ s.regs.adcData.sample ∨
        t.regs.adcData.ch ≠ s.regs.adcData.ch ∨ t.regs.dhtData ≠ s.regs.dhtData ∨
        t.regs.dhtCsum.csum ≠ s.regs.dhtCsum.csum) →
    s.regs.status.busy = 1 ∧ t.regs.status.busy = 0 ∧ t.regs.status.done = 1 ∧
      t.regs.status.err = .none ∧
      (t.regs.rxbit.bit ≠ s.regs.rxbit.bit → t.regs.rxbit.valid = 1) ∧
      (t.regs.adcData.sample ≠ s.regs.adcData.sample ∨ t.regs.adcData.ch ≠ s.regs.adcData.ch →
        t.regs.adcData.valid = 1) ∧
      (t.regs.dhtData ≠ s.regs.dhtData ∨ t.regs.dhtCsum.csum ≠ s.regs.dhtCsum.csum →
        t.regs.dhtCsum.valid = 1)

/-! ### Bit-clock transport (40_transport.md) -/

/-- R81: SendBit is five micro-actions: low, hold `T_HOLD`, the data level, high, hold `T_HOLD`. -/
def Obligations.SendBitMicroActions : Prop :=
  ∀ (s : State) (v : Bit),
    (s.seq = .sendBit v (.send .clockLow) →
      exec (.sendBit v) s = .next
        { s with ports := { s.ports with sclk := 0 }, seq := .sendBit v (.send .holdLow) }) ∧
    (s.seq = .sendBit v (.send .holdLow) →
      exec (.sendBit v) s = .next
        { s with held := s.held + s.params.tHold, seq := .sendBit v (.send .data) }) ∧
    (s.seq = .sendBit v (.send .data) →
      exec (.sendBit v) s = .next
        { s with ports := { s.ports with sdo := v }, seq := .sendBit v (.send .clockHigh) }) ∧
    (s.seq = .sendBit v (.send .clockHigh) →
      exec (.sendBit v) s = .next
        { s with ports := { s.ports with sclk := 1 }, seq := .sendBit v (.send .holdHigh) }) ∧
    (s.seq = .sendBit v (.send .holdHigh) →
      exec (.sendBit v) s = .next
        { s with held := s.held + s.params.tHold, seq := .sendBit v .finish })

/-- R82: RecvBit is one clock period with one sample at the end of the low phase; it changes no port but
`SCLK`.
(The working registers of the other commands are kept: the model's choice, log entry 23.) -/
def Obligations.RecvBitMicroActions : Prop :=
  ∀ (s : State) (b : Bit) (ls : List Bit),
    (s.seq = .recvBit (.recv .clockLow) →
      exec .recvBit s = .next
        { s with ports := { s.ports with sclk := 0 }, seq := .recvBit (.recv .holdLow) }) ∧
    (s.seq = .recvBit (.recv .holdLow) →
      exec .recvBit s = .next
        { s with held := s.held + s.params.tHold, seq := .recvBit (.recv .sample) }) ∧
    (s.seq = .recvBit (.recv .sample) → s.env.levels = b :: ls →
      exec .recvBit s = .next
        { s with env := { s.env with levels := ls }, seq := .recvBit (.recv (.clockHigh b)) }) ∧
    (s.seq = .recvBit (.recv (.clockHigh b)) →
      exec .recvBit s = .next
        { s with ports := { s.ports with sclk := 1 }, seq := .recvBit (.recv (.holdHigh b)) }) ∧
    (s.seq = .recvBit (.recv (.holdHigh b)) →
      exec .recvBit s = .next
        { s with held := s.held + s.params.tHold, seq := .recvBit (.finish b) })

/-- A whole SEND_BIT from acceptance to completion, with both lines granted (R85, R152): `SDO` and `SCLK`
carry the bit, nothing but the outcome is written, and the run lasts at least 2·T_HOLD. -/
def Obligations.SendBitWholeRun : Prop :=
  ∀ (s : State) (v : Bit) (gs : List Grant),
    s.seq = .idle → s.own = Own.empty → s.env.grants = .ok :: .ok :: gs →
    execN 9 (.sendBit v) s = .next
      { s with
        regs := { s.regs with status := { s.regs.status with busy := 0, done := 1, err := .none } }
        ports := { s.ports with sclk := 1, sdo := v }
        env := { s.env with grants := gs }
        held := 2 * s.params.tHold }

/-- A whole RECV_BIT (R86, R152): `RXBIT` holds the one sample and is `VALID`; `SDO` keeps its level. -/
def Obligations.RecvBitWholeRun : Prop :=
  ∀ (s : State) (b : Bit) (ls : List Bit) (gs : List Grant),
    s.seq = .idle → s.own = Own.empty → s.env.grants = .ok :: .ok :: gs → s.env.levels = b :: ls →
    execN 9 .recvBit s = .next
      { s with
        regs :=
          { s.regs with
            status := { s.regs.status with busy := 0, done := 1, err := .none }
            rxbit := { bit := b, valid := 1 } }
        ports := { s.ports with sclk := 1 }
        env := { s.env with grants := gs, levels := ls }
        held := 2 * s.params.tHold }

/-- The last micro-action of SEND_BIT and of RECV_BIT (R85, R86): with the lines owned it completes with
NONE, and RECV_BIT writes its bit and `VALID` in the same step. -/
def Obligations.TransportCommandsComplete : Prop :=
  ∀ (s : State) (v b : Bit), s.own.get .dht = none →
    (s.seq = .sendBit v .finish →
      exec (.sendBit v) s = .next
        { s with
          regs := { s.regs with status := { s.regs.status with busy := 0, done := 1, err := .none } }
          seq := .idle
          own := Own.empty }) ∧
    (s.seq = .recvBit (.finish b) →
      exec .recvBit s = .next
        { s with
          regs :=
            { s.regs with
              status := { s.regs.status with busy := 0, done := 1, err := .none }
              rxbit := { bit := b, valid := 1 } }
          seq := .idle
          own := Own.empty })

/-! ### ADC0834 (41_adc0834.md) -/

/-- ADC_READ uses the transport's primitives (R89, R91, R92, R94): at every position of its header and of its
two paths it does to ports, registers, environment and time base what SEND_BIT of the header bit, or RECV_BIT,
does at the same position of the primitive. The accumulators change only where R11 puts their evaluation: with
the micro-action that follows the received bit (the next bit's first micro-action, the bare sample of p8, or
the end of conversion). -/
def Obligations.AdcReadUsesTheTransportPrimitives : Prop :=
  ∀ (s : State) (ch : BitVec 2),
    (∀ (k : Fin 5) (p : SendPos), s.seq = .adcRead ch (.header k p) →
      ∃ t u, exec (.adcRead ch) s = .next t ∧
        exec (.sendBit (headerBit ch s.params.adcDcBit k))
            { s with seq := .sendBit (headerBit ch s.params.adcDcBit k) (.send p) } = .next u ∧
        t = { u with seq := t.seq }) ∧
    (∀ (k : Fin 7) (p : RecvPos),
      (s.seq = .adcRead ch (.msbPath k p) ∨ s.seq = .adcRead ch (.lsbPath k p)) →
      ∃ t u, exec (.adcRead ch) s = .next t ∧
        exec .recvBit { s with seq := .recvBit (.recv p) } = .next u ∧
        t = { u with seq := t.seq }) ∧
    (∀ (w : Work),
      (s.seq = .adcRead ch .startMsb ∧ w = { s.work with msb := 0 }) ∨
      (∃ (k : Fin 7) (b : Bit), k.val < 6 ∧ s.seq = .adcRead ch (.msbGot k b) ∧
        w = { s.work with msb := s.work.msb.extractLsb' 0 7 ++ b }) ∨
      (∃ b : Bit, s.seq = .adcRead ch (.sharedGot b) ∧
        w = { s.work with msb := s.work.msb.extractLsb' 0 7 ++ b, lsb := 0#7 ++ b }) ∨
      (∃ (k : Fin 7) (b : Bit), k.val < 6 ∧ s.seq = .adcRead ch (.lsbGot k b) ∧
        w = { s.work with lsb := s.work.lsb ||| (0#7 ++ b) <<< (k.val + 1) }) →
      ∃ t u, exec (.adcRead ch) s = .next t ∧
        exec .recvBit { s with seq := .recvBit (.recv .clockLow) } = .next u ∧
        t = { u with seq := t.seq, work := w }) ∧
    ∀ (b p8 : Bit) (ls : List Bit),
      (s.seq = .adcRead ch (.msbGot 6 b) → s.env.levels = p8 :: ls →
        exec (.adcRead ch) s = .next
          { s with
            work := { s.work with msb := s.work.msb.extractLsb' 0 7 ++ b }
            env := { s.env with levels := ls }
            seq := .adcRead ch (.sharedGot p8) }) ∧
      (s.seq = .adcRead ch (.lsbGot 6 b) →
        exec (.adcRead ch) s = .next
          { s with
            work := { s.work with lsb := s.work.lsb ||| (0#7 ++ b) <<< 7 }
            ports := { s.ports with csN := 1 }
            seq := .adcRead ch .holdReleased })

/-- R69, R70: the five header bits, in the order they are sent, and the header words of the four channels. -/
def Obligations.AdcHeaderBits : Prop :=
  (∀ (ch : BitVec 2) (dc : Bit),
      headerBit ch dc 0 = 1 ∧ headerBit ch dc 1 = 1 ∧ headerBit ch dc 2 = ch.extractLsb' 0 1 ∧
        headerBit ch dc 3 = (if ch.toNat > 1 then 1 else 0) ∧ headerBit ch dc 4 = dc) ∧
    (adcHeader 0 0 = 0x18 ∧ adcHeader 1 0 = 0x1C ∧ adcHeader 2 0 = 0x1A ∧ adcHeader 3 0 = 0x1E) ∧
    adcHeader 0 1 = 0x19 ∧ adcHeader 1 1 = 0x1D ∧ adcHeader 2 1 = 0x1B ∧ adcHeader 3 1 = 0x1F

/-- The validator (R95): equal paths complete with NONE and deliver sample, channel and `VALID`; unequal
paths complete with SAMPLE_DISAGREE and write no sample. That `msb` and `lsb` keep their values is the model's
choice (log entry 23). -/
def Obligations.AdcValidatorDecides : Prop :=
  ∀ (s : State) (ch : BitVec 2), s.seq = .adcRead ch .finish → s.own.get .dht = none →
    (s.work.msb = s.work.lsb →
      exec (.adcRead ch) s = .next
        { s with
          regs :=
            { s.regs with
              status := { s.regs.status with busy := 0, done := 1, err := .none }
              adcData := { sample := s.work.msb, ch := ch, valid := 1 } }
          seq := .idle
          own := Own.empty }) ∧
    (s.work.msb ≠ s.work.lsb →
      exec (.adcRead ch) s = .next
        { s with
          regs :=
            { s.regs with
              status := { s.regs.status with busy := 0, done := 1, err := .sampleDisagree } }
          seq := .idle
          own := Own.empty })

/-- A whole ADC_READ (R89, R92 to R97, R152): for every channel and every readout p1..p15, the run ends with
the sample p1..p8 exactly when p9..p15 is p7..p1, and otherwise with SAMPLE_DISAGREE and the old sample not
`VALID`; the ports are left as R87 and R91 say; the run lasts at least 19 clock periods and two `T_CS`. -/
def Obligations.AdcReadWholeRun : Prop :=
  ∀ (s : State) (ch : BitVec 2) (p1 p2 p3 p4 p5 p6 p7 p8 p9 p10 p11 p12 p13 p14 p15 : Bit)
    (ls : List Bit) (gs : List Grant),
    s.seq = .idle → s.own = Own.empty →
    s.env.grants = .ok :: .ok :: .ok :: .ok :: gs →
    s.env.levels = p1 :: p2 :: p3 :: p4 :: p5 :: p6 :: p7 :: p8 :: p9 :: p10 :: p11 :: p12 :: p13 ::
      p14 :: p15 :: ls →
    ∃ t, execN 106 (.adcRead ch) s = .next t ∧ t.seq = .idle ∧ t.own = Own.empty ∧
      t.ports = { s.ports with sclk := 1, csN := 1, sdo := s.params.adcDcBit } ∧
      t.held = 19 * (2 * s.params.tHold) + 2 * s.params.tCs ∧
      t.env = { s.env with grants := gs, levels := ls } ∧
      t.regs =
        if p9 = p7 ∧ p10 = p6 ∧ p11 = p5 ∧ p12 = p4 ∧ p13 = p3 ∧ p14 = p2 ∧ p15 = p1 then
          { s.regs with
            status := { s.regs.status with busy := 0, done := 1, err := .none }
            adcData :=
              { sample := p1 ++ p2 ++ p3 ++ p4 ++ p5 ++ p6 ++ p7 ++ p8, ch := ch, valid := 1 } }
        else
          { s.regs with
            status := { s.regs.status with busy := 0, done := 1, err := .sampleDisagree }
            adcData := { s.regs.adcData with valid := 0 } }

/-- ADC_READ, DHT_READ, SEND_BIT and RECV_BIT do not read `CANCEL` (R24, R107, R150): with the flag set or
clear they do the same. -/
def Obligations.CancelDoesNotReachProtocolCommands : Prop :=
  ∀ (s t : State) (i : Instr) (c : Bit),
    i = .recvBit ∨ i = .dhtRead ∨ (∃ v, i = .sendBit v) ∨ (∃ ch, i = .adcRead ch) →
    exec i s = .next t →
    exec i { s with regs := { s.regs with cancel := c } } =
      .next { t with regs := { t.regs with cancel := c } }

/-! ### DHT11 (42_dht11.md) -/

/-- R98: a WaitLevel that sees `n` < `N_WAIT` levels that are not L and then L returns `n` after n+1 samples
and n holds; one that sees `N_WAIT` of them raises TIMEOUT after that many samples and holds, and no partial
frame is returned (R105). The test of the last sample and the return belong to the micro-action that follows
it (R11), which stores `n` (R38) and is the first poll of the next wait, if there is one. The wait is at its
first poll in the first conjunct, with `L` as R100 and R101 give it. That the level just sampled stands in the
position of `SEQ` until that micro-action is the model's representation (log entry 10). -/
def Obligations.WaitLevelCountsOrTimesOut : Prop :=
  (∀ (s : State) (site : WaitSite) (level : Bit) (n : Nat) (ls : List Bit),
    s.seq = .dhtRead (.wait site (.poll 0)) →
    (level = match site with
      | .handshake k => if k = 1 then 0 else 1
      | .fall _ _ => 0
      | .rise _ _ => 1) →
    (n < s.params.nWait → s.env.levels = waitAnswers level n ++ ls →
      execN (2 * n + 1) .dhtRead s = .next
        { s with
          held := s.held + n * s.params.tPoll
          env := { s.env with levels := ls }
          seq := .dhtRead (.wait site (.seen n level)) }) ∧
    (s.env.levels = List.replicate s.params.nWait (~~~level) ++ ls →
      ∃ t, execN (2 * s.params.nWait + 1) .dhtRead s = .next t ∧ t.seq = .idle ∧
        t.held = s.held + s.params.nWait * s.params.tPoll ∧ t.env = { s.env with levels := ls } ∧
        t.regs =
          { s.regs with status := { s.regs.status with busy := 0, done := 1, err := .timeout } } ∧
        t.own = Own.empty ∧ (s.own.get .dht ≠ none → t.ports = { s.ports with dhtOe := 0 }))) ∧
  ∀ (s : State) (site : WaitSite) (n : Nat), s.seq = .dhtRead (.wait site (.seen n site.level)) →
    (∃ t, exec .dhtRead s = .next t ∧ (n < 256 → t.work.n.toNat = n) ∧ t.held = s.held ∧
      ∀ p, t.seq ≠ .dhtRead (.wait site p)) ∧
    ∀ site', site.next = some site' →
      ∃ w, exec .dhtRead s =
        exec .dhtRead { s with seq := .dhtRead (.wait site' (.poll 0)), work := w }

/-- R101: a bit whose pulse count is `n` decodes to 1 exactly when `n` exceeds `DHT_THRESH`, and becomes the
least significant bit of the byte being assembled, which bit 7 stores in the frame (R102): byte 0 is
`humidity_int`, 1 `humidity_dec`, 2 `temp_int`, 3 `temp_dec`, 4 the checksum (R74). Both waits over,
no working register but `n` has changed; the bit is taken with the micro-action that follows (R11). -/
def Obligations.DhtBitIsOneAboveThreshold : Prop :=
  ∀ (s : State) (k : Fin 5) (j : Fin 8) (m n : Nat) (ls : List Bit),
    s.seq = .dhtRead (.wait (.fall k j) (.poll 0)) → m < s.params.nWait → n < s.params.nWait →
    n < 256 → s.env.levels = waitAnswers 0 m ++ waitAnswers 1 n ++ ls →
    ∃ t u byte, execN ((2 * m + 1) + (2 * n + 1)) .dhtRead s = .next t ∧
      t.seq = .dhtRead (.wait (.rise k j) (.seen n 1)) ∧ t.held = s.held + (m + n) * s.params.tPoll ∧
      t.env.levels = ls ∧ t.regs = s.regs ∧ t.work = { s.work with n := t.work.n } ∧
      exec .dhtRead t = .next u ∧
      byte.getLsbD 0 = decide (n > s.params.dhtThresh) ∧
      (∀ b, b < 7 → byte.getLsbD (b + 1) = s.work.byte.getLsbD b) ∧
      (j.val ≠ 7 → u.work.byte = byte ∧ u.work.frame = s.work.frame) ∧
      (j.val = 7 →
        (u.work.frame = match k with
          | 0 => { s.work.frame with humInt := byte }
          | 1 => { s.work.frame with humDec := byte }
          | 2 => { s.work.frame with tempInt := byte }
          | 3 => { s.work.frame with tempDec := byte }
          | 4 => { s.work.frame with checksum := byte }) ∧
        (k.val ≠ 4 → u.work.byte = 0))

/-- The request (R99): with both acquisitions granted, the six micro-actions drive the line low for
`T_REQ_LOW`, high for `T_REQ_HIGH`, and release it. -/
def Obligations.DhtRequestDrivesThenReleases : Prop :=
  ∀ (s : State) (gs : List Grant),
    (s.seq = .dhtRead .acquireOut → s.env.grants = .ok :: gs →
      execN 2 .dhtRead s = .next
        { s with
          own := { s.own with dht := some .output }
          ports := { s.ports with dhtOe := 1, dhtO := 0 }
          env := { s.env with grants := gs }
          seq := .dhtRead .holdLow }) ∧
    (s.seq = .dhtRead .holdLow →
      execN 2 .dhtRead s = .next
        { s with
          held := s.held + s.params.tReqLow
          ports := { s.ports with dhtO := 1 }
          seq := .dhtRead .holdHigh }) ∧
    (s.seq = .dhtRead .holdHigh → s.env.grants = .ok :: gs →
      execN 2 .dhtRead s = .next
        { s with
          held := s.held + s.params.tReqHigh
          own := { s.own with dht := some .input }
          ports := { s.ports with dhtOe := 0 }
          env := { s.env with grants := gs }
          seq := .dhtRead (.wait (.handshake 0) (.poll 0)) })

/-- R103: after 40 bits, a frame whose first four bytes sum to the fifth modulo 256 is delivered with NONE,
all fields in one step; any other frame ends the command with CHECKSUM and writes no result (R104, R126). The
step is the one that follows the last wait, of count `n`, and takes the last bit into the fifth byte `c` first
(R11); that the sample stands in the position of `SEQ` until then is the model's representation (log entry 10),
and that the working registers keep their values afterwards is the model's choice (log entry 23). -/
def Obligations.DhtChecksumDecides : Prop :=
  ∀ (s : State) (n : Nat) (c : Byte), s.seq = .dhtRead (.wait (.rise 4 7) (.seen n 1)) →
    s.own.get .dht = some .input → n < 256 →
    c = s.work.byte.extractLsb' 0 7 ++ (if n > s.params.dhtThresh then 1#1 else 0#1) →
    ((s.work.frame.humInt.toNat + s.work.frame.humDec.toNat + s.work.frame.tempInt.toNat +
          s.work.frame.tempDec.toNat) % 256 = c.toNat →
      exec .dhtRead s = .next
        { s with
          regs :=
            { s.regs with
              status := { s.regs.status with busy := 0, done := 1, err := .none }
              dhtData :=
                { humInt := s.work.frame.humInt
                  humDec := s.work.frame.humDec
                  tempInt := s.work.frame.tempInt
                  tempDec := s.work.frame.tempDec }
              dhtCsum := { csum := c, valid := 1 } }
          work :=
            { s.work with
              n := BitVec.ofNat 8 n
              byte := c
              frame := { s.work.frame with checksum := c } }
          ports := { s.ports with dhtOe := 0 }
          seq := .idle
          own := Own.empty }) ∧
    ((s.work.frame.humInt.toNat + s.work.frame.humDec.toNat + s.work.frame.tempInt.toNat +
          s.work.frame.tempDec.toNat) % 256 ≠ c.toNat →
      exec .dhtRead s = .next
        { s with
          regs :=
            { s.regs with status := { s.regs.status with busy := 0, done := 1, err := .checksum } }
          work :=
            { s.work with
              n := BitVec.ofNat 8 n
              byte := c
              frame := { s.work.frame with checksum := c } }
          ports := { s.ports with dhtOe := 0 }
          seq := .idle
          own := Own.empty })

/-- A whole DHT_READ (R73, R74, R99 to R104, R152): for all counts below `N_WAIT` that the environment's
answers give to the 83 waits, bit 7-j of frame byte k is 1 exactly when the pulse of bit (k, j) exceeds the
threshold, byte 0 being `humidity_int`, 1 `humidity_dec`, 2 `temp_int`, 3 `temp_dec` and 4 the checksum; the
frame is delivered if its checksum holds, and CHECKSUM is raised if not. -/
def Obligations.DhtReadWholeRun : Prop :=
  ∀ (s : State) (h : Fin 3 → Nat) (a n : Fin 5 → Fin 8 → Nat) (ls : List Bit) (gs : List Grant),
    s.seq = .idle → s.own = Own.empty → s.env.grants = .ok :: .ok :: gs →
    s.params.nWait ≤ 256 → (∀ k, h k < s.params.nWait) → (∀ k j, a k j < s.params.nWait) →
    (∀ k j, n k j < s.params.nWait) → s.env.levels = dhtAnswers h a n ++ ls →
    ∃ (steps : Nat) (t : State) (f : Frame), execN steps .dhtRead s = .next t ∧
      (∀ j : Fin 8,
        f.humInt.getLsbD (7 - j.val) = decide (n 0 j > s.params.dhtThresh) ∧
          f.humDec.getLsbD (7 - j.val) = decide (n 1 j > s.params.dhtThresh) ∧
          f.tempInt.getLsbD (7 - j.val) = decide (n 2 j > s.params.dhtThresh) ∧
          f.tempDec.getLsbD (7 - j.val) = decide (n 3 j > s.params.dhtThresh) ∧
          f.checksum.getLsbD (7 - j.val) = decide (n 4 j > s.params.dhtThresh)) ∧
      t.seq = .idle ∧ t.own = Own.empty ∧ t.ports = { s.ports with dhtO := 1, dhtOe := 0 } ∧
      t.env = { s.env with grants := gs, levels := ls } ∧
      s.params.tReqLow + s.params.tReqHigh ≤ t.held ∧
      t.regs =
        if (f.humInt.toNat + f.humDec.toNat + f.tempInt.toNat + f.tempDec.toNat) % 256 =
            f.checksum.toNat then
          { s.regs with
            status := { s.regs.status with busy := 0, done := 1, err := .none }
            dhtData :=
              { humInt := f.humInt, humDec := f.humDec, tempInt := f.tempInt, tempDec := f.tempDec }
            dhtCsum := { csum := f.checksum, valid := 1 } }
        else
          { s.regs with
            status := { s.regs.status with busy := 0, done := 1, err := .checksum }
            dhtCsum := { s.regs.dhtCsum with valid := 0 } }

/-! ### Keypad (43_trackers.md section 1) -/

/-- One scan pass from the top of an iteration that is not cancelled (R109, R113 (d)): 28 micro-actions, 16
samples, row after row and column after column; `cur` is exactly the set of keys whose sample read 1, and
every row is low afterwards. Row r alone is high at the start of its `Hold(T_ROW)`, the step 7r + 1, and at
its four samples, the steps 7r + 2 to 7r + 5. -/
def Obligations.ScanPassReportsTheSampledKeys : Prop :=
  ∀ (s : State) (keys ls : List Bit),
    s.seq = .keypadRun .top → s.regs.cancel = 0 → s.ports.krow = 0 → keys.length = 16 →
    s.env.levels = keys ++ ls →
    ∃ t, execN 28 .keypadRun s = .next t ∧ t.seq = .keypadRun .endOfPass ∧
      (∀ r c : Fin 4,
        (t.work.cur.getLsbD (4 * r.val + c.val) = true ↔ keys[4 * r.val + c.val]? = some 1)) ∧
      t.ports = s.ports ∧ t.regs = s.regs ∧ t.work.prev = s.work.prev ∧ t.env.levels = ls ∧
      t.held = s.held + 4 * s.params.tRow ∧
      ∀ r : Fin 4,
        (∃ u, execN (7 * r.val + 1) .keypadRun s = .next u ∧ u.seq = .keypadRun (.rowHold r) ∧
          u.ports = { s.ports with krow := 1#4 <<< r.val } ∧
          u.env.levels = keys.drop (4 * r.val) ++ ls ∧ u.held = s.held + r.val * s.params.tRow) ∧
        ∀ c : Fin 4, ∃ u, execN (7 * r.val + 2 + c.val) .keypadRun s = .next u ∧
          u.ports = { s.ports with krow := 1#4 <<< r.val } ∧
          u.env.levels = keys.drop (4 * r.val + c.val) ++ ls ∧
          u.held = s.held + (r.val + 1) * s.params.tRow

/-- R111, R112: the end of a pass is one micro-action; it latches the newly pressed keys, if there are any,
and remembers and shows the pass.
(The working registers of the other commands are kept: the model's choice, log entry 23.) -/
def Obligations.EndOfPassLatchesNewKeys : Prop :=
  ∀ s : State, s.seq = .keypadRun .endOfPass →
    exec .keypadRun s = .next
      { s with
        seq := .keypadRun .scanHold
        work := { s.work with prev := s.work.cur }
        regs :=
          if s.work.cur &&& ~~~s.work.prev = 0 then { s.regs with keyCur := s.work.cur }
          else
            { s.regs with
              keyCur := s.work.cur
              keyNew := s.regs.keyNew ||| (s.work.cur &&& ~~~s.work.prev)
              status :=
                { s.regs.status with
                  keyEvt := 1
                  keyOvr := if s.regs.status.keyEvt = 1 then 1 else s.regs.status.keyOvr } } }

/-- A key is reported in the first of consecutive passes that see it, not in the later ones, and again after
a pass that did not see it; a release is never recorded (R113 (a) to (c)). Between two passes the sequencer
holds `T_SCAN` and returns to the top of the loop, where `CANCEL` is tested (R110, R116), with `prev` and
everything else kept. -/
def Obligations.KeyIsReportedOnFirstPassOnly : Prop :=
  (∀ (s t : State) (b : Nat), s.seq = .keypadRun .endOfPass → exec .keypadRun s = .next t →
    t.regs.keyNew.getLsbD b =
      (s.regs.keyNew.getLsbD b || (s.work.cur.getLsbD b && !s.work.prev.getLsbD b)) ∧
      t.work.prev.getLsbD b = s.work.cur.getLsbD b ∧ t.seq = .keypadRun .scanHold) ∧
    ∀ s : State, s.seq = .keypadRun .scanHold →
      exec .keypadRun s =
        .next { s with held := s.held + s.params.tScan, seq := .keypadRun .top }

/-! ### Switch trackers (43_trackers.md sections 2 to 4) -/

/-- R114: one iteration of WaitEdge in the two switch trackers, its first one (at the top of the outer loop)
and the later ones. `CANCEL` is tested before the sample; an edge is a sample that differs from `SW_LAST`,
rising and falling alike (R115). That a cancelled first iteration is the completion itself is log entry 11. -/
def Obligations.WaitEdgeIteration : Prop :=
  ∀ (s : State) (i0 i1 b : Bit) (ls : List Bit),
    (s.regs.cancel = 1 → s.seq = .tiltRun .waitEdge →
      exec .tiltRun s = .next { s with seq := .tiltRun .cancelled }) ∧
    (s.regs.cancel = 1 → s.seq = .slideRun i0 i1 .waitEdge →
      exec (.slideRun i0 i1) s = .next { s with seq := .slideRun i0 i1 .cancelled }) ∧
    (s.regs.cancel = 1 → s.seq = .tiltRun .top →
      ∃ t, exec .tiltRun s = .next t ∧ t.seq = .idle ∧ t.regs.status.err = .none ∧ t.env = s.env) ∧
    (s.regs.cancel = 1 → s.seq = .slideRun i0 i1 .top →
      ∃ t, exec (.slideRun i0 i1) s = .next t ∧ t.seq = .idle ∧ t.regs.status.err = .none ∧
        t.env = s.env) ∧
    (s.regs.cancel = 0 → s.env.levels = b :: ls →
      (s.seq = .tiltRun .waitEdge ∨ s.seq = .tiltRun .top →
        exec .tiltRun s = .next
          { s with
            env := { s.env with levels := ls }
            seq := if b = s.work.swLast then .tiltRun .waitEdge else .tiltRun .settleHold }) ∧
      (s.seq = .slideRun i0 i1 .waitEdge ∨ s.seq = .slideRun i0 i1 .top →
        exec (.slideRun i0 i1) s = .next
          { s with
            env := { s.env with levels := ls }
            seq :=
              if b = s.work.swLast then .slideRun i0 i1 .waitEdge
              else .slideRun i0 i1 (.toggle b) }))

/-- R116, R135: a tracker that sees `CANCEL` at the top of an outer iteration, or whose WaitEdge was
cancelled, completes with NONE; what it has latched stays. That the test at the top and the completion are
one micro-action is log entry 11. -/
def Obligations.CancelledTrackersCompleteWithNone : Prop :=
  ∀ (s : State) (i0 i1 : Bit), s.own.get .dht = none →
    (s.regs.cancel = 1 ∧ s.seq = .keypadRun .top →
      exec .keypadRun s = .next
        { s with
          regs := { s.regs with status := { s.regs.status with busy := 0, done := 1, err := .none } }
          seq := .idle
          own := Own.empty }) ∧
    (s.regs.cancel = 1 ∧ s.seq = .tiltRun .top ∨ s.seq = .tiltRun .cancelled →
      exec .tiltRun s = .next
        { s with
          regs := { s.regs with status := { s.regs.status with busy := 0, done := 1, err := .none } }
          seq := .idle
          own := Own.empty }) ∧
    (s.regs.cancel = 1 ∧ s.seq = .slideRun i0 i1 .top ∨ s.seq = .slideRun i0 i1 .cancelled →
      exec (.slideRun i0 i1) s = .next
        { s with
          regs := { s.regs with status := { s.regs.status with busy := 0, done := 1, err := .none } }
          seq := .idle
          own := Own.empty })

/-- R122: a tracker past its acquisitions that neither sees `CANCEL` nor was cancelled never completes. -/
def Obligations.TrackersRunUntilCancelled : Prop :=
  ∀ (s : State) (i : Instr), i = .keypadRun ∨ i = .tiltRun ∨ (∃ i0 i1, i = .slideRun i0 i1) →
    runningCommand s.seq = some i → acquiresAt s.seq = none → s.regs.cancel = 0 →
    s.seq ≠ .tiltRun .cancelled → (∀ i0 i1, s.seq ≠ .slideRun i0 i1 .cancelled) →
    ∃ t, exec i s = .next t ∧ runningCommand t.seq = some i ∧ acquiresAt t.seq = none ∧
      t.seq ≠ .tiltRun .cancelled ∧ (∀ i0 i1, t.seq ≠ .slideRun i0 i1 .cancelled) ∧
      t.regs.status.busy = s.regs.status.busy ∧ t.regs.cancel = 0

/-- R118: TiltReport is one micro-action: `SW_LAST`, both indicators, `EVCOUNT` modulo 256 and `SW_EVT`.
(The working registers of the other commands are kept: the model's choice, log entry 23.) -/
def Obligations.TiltReportShowsTheSettledLevel : Prop :=
  ∀ (s : State) (v : Bit), s.seq = .tiltRun (.report v) →
    exec .tiltRun s = .next
      { s with
        work := { s.work with swLast := v }
        ports := { s.ports with ind0 := v, ind1 := ~~~v }
        regs :=
          { s.regs with
            evCount := BitVec.ofNat 8 ((s.regs.evCount.toNat + 1) % 256)
            status := { s.regs.status with swEvt := 1 } }
        seq := .tiltRun .reportHold }

/-- One wake of the tilt tracker makes one report, of the settled level `v`, whatever level `e` woke it and
whatever happened in between; if the line is still at `v` at the next sample, no second report follows
(R117, R119). The report is at least `T_TILT_SETTLE` after the wake and at least `T_TILT_HOLD` before the
next sample. -/
def Obligations.TiltBounceGivesOneReport : Prop :=
  ∀ (s : State) (e v : Bit) (ls : List Bit),
    s.seq = .tiltRun .waitEdge → s.regs.cancel = 0 → e ≠ s.work.swLast →
    s.env.levels = e :: v :: v :: ls →
    execN 6 .tiltRun s = .next
      { s with
        work := { s.work with swLast := v }
        ports := { s.ports with ind0 := v, ind1 := ~~~v }
        regs :=
          { s.regs with
            evCount := s.regs.evCount + 1
            status := { s.regs.status with swEvt := 1 } }
        env := { s.env with levels := ls }
        held := s.held + s.params.tTiltSettle + s.params.tTiltHold
        seq := .tiltRun .waitEdge }

/-- R121: SlideToggle is one micro-action that inverts both indicators in lockstep and counts the event. -/
def Obligations.SlideToggleInvertsBothIndicators : Prop :=
  ∀ (s : State) (i0 i1 e : Bit), s.seq = .slideRun i0 i1 (.toggle e) →
    exec (.slideRun i0 i1) s = .next
      { s with
        work := { s.work with swLast := e }
        ports := { s.ports with ind0 := ~~~s.ports.ind0, ind1 := ~~~s.ports.ind1 }
        regs :=
          { s.regs with
            evCount := BitVec.ofNat 8 ((s.regs.evCount.toNat + 1) % 256)
            status := { s.regs.status with swEvt := 1 } }
        seq := .slideRun i0 i1 .top }

/-- After m clean edges the slide tracker has toggled m times: `IND0` = `I0` XOR (m mod 2), `IND1` = `I1`
XOR (m mod 2), and `EVCOUNT` has advanced by m modulo 256 (R120, R121). The run starts where the starting
levels have been driven and the reference taken. -/
def Obligations.SlideTogglesOncePerEdge : Prop :=
  ∀ (m : Nat) (s : State) (i0 i1 : Bit) (ls : List Bit),
    s.seq = .slideRun i0 i1 .top → s.regs.cancel = 0 →
    s.ports.ind0 = i0 → s.ports.ind1 = i1 → s.env.levels = edges s.work.swLast m ++ ls →
    ∃ t, execN (2 * m) (.slideRun i0 i1) s = .next t ∧ t.seq = .slideRun i0 i1 .top ∧
      t.ports.ind0 = i0 ^^^ BitVec.ofNat 1 (m % 2) ∧
      t.ports.ind1 = i1 ^^^ BitVec.ofNat 1 (m % 2) ∧
      t.work.swLast = s.work.swLast ^^^ BitVec.ofNat 1 (m % 2) ∧
      t.regs.evCount = s.regs.evCount + BitVec.ofNat 8 m ∧ t.env.levels = ls

/-- The start of the two switch trackers: SLIDE_RUN drives both starting levels in one micro-action, and
both trackers take a first sample as the reference `SW_LAST` (R117, R120). -/
def Obligations.SwitchTrackersStart : Prop :=
  ∀ (s : State) (i0 i1 b : Bit) (ls : List Bit),
    (s.seq = .slideRun i0 i1 .driveStart →
      exec (.slideRun i0 i1) s = .next
        { s with
          ports := { s.ports with ind0 := i0, ind1 := i1 }
          seq := .slideRun i0 i1 .firstSample }) ∧
    (s.seq = .slideRun i0 i1 .firstSample → s.env.levels = b :: ls →
      exec (.slideRun i0 i1) s = .next
        { s with
          env := { s.env with levels := ls }
          work := { s.work with swLast := b }
          seq := .slideRun i0 i1 .top }) ∧
    (s.seq = .tiltRun .firstSample → s.env.levels = b :: ls →
      exec .tiltRun s = .next
        { s with
          env := { s.env with levels := ls }
          work := { s.work with swLast := b }
          seq := .tiltRun .top })

/-! ### Frames: what each command leaves unchanged in one step -/

/-- SEND_BIT, RECV_BIT and ADC_READ leave `CMD`, `CTRL`, the DHT, keypad and switch registers, the event
flags, the ports `DHT_O`, `KROW`, `IND0` and `IND1`, and the working registers of the other commands as
they are; RECV_BIT keeps `SDO`; the raw transport commands keep `CS_N`; each writes no result register
but its own. (The working registers of the other commands: the model's choice, log entry 23.) -/
def Obligations.SerialCommandsFrame : Prop :=
  ∀ (s t : State) (i : Instr),
    i = .recvBit ∨ (∃ v, i = .sendBit v) ∨ (∃ ch, i = .adcRead ch) → exec i s = .next t →
    t.regs.cmd = s.regs.cmd ∧ t.regs.cancel = s.regs.cancel ∧ t.regs.dhtData = s.regs.dhtData ∧
      t.regs.dhtCsum = s.regs.dhtCsum ∧ t.regs.keyNew = s.regs.keyNew ∧
      t.regs.keyCur = s.regs.keyCur ∧ t.regs.evCount = s.regs.evCount ∧
      t.regs.status.keyEvt = s.regs.status.keyEvt ∧ t.regs.status.keyOvr = s.regs.status.keyOvr ∧
      t.regs.status.swEvt = s.regs.status.swEvt ∧
      (s.seq = .idle ∨ runningCommand s.seq = some i →
        t.regs.status.cmdRej = s.regs.status.cmdRej) ∧
      (i ≠ .recvBit → t.regs.rxbit = s.regs.rxbit) ∧
      ((∀ ch, i ≠ .adcRead ch) →
        t.regs.adcData = s.regs.adcData ∧ t.ports.csN = s.ports.csN ∧ t.work = s.work) ∧
      (i = .recvBit → t.ports.sdo = s.ports.sdo) ∧
      t.ports.dhtO = s.ports.dhtO ∧ t.ports.krow = s.ports.krow ∧ t.ports.ind0 = s.ports.ind0 ∧
      t.ports.ind1 = s.ports.ind1 ∧ (s.own.get .dht = none → t.ports.dhtOe = s.ports.dhtOe) ∧
      t.work = { s.work with msb := t.work.msb, lsb := t.work.lsb } ∧
      t.env = { s.env with levels := t.env.levels, grants := t.env.grants, drawn := t.env.drawn } ∧
      t.params = s.params

/-- DHT_READ leaves every register but `STATUS`, `DHT_DATA` and `DHT_CSUM`, the event flags, and every port
but the DHT line's as they are; `DHT_DATA` changes only at a completion with NONE. (The working registers of
the other commands are kept: the model's choice, log entry 23.) -/
def Obligations.DhtReadFrame : Prop :=
  ∀ s t : State, exec .dhtRead s = .next t →
    t.regs =
        { s.regs with
          status := t.regs.status, dhtData := t.regs.dhtData, dhtCsum := t.regs.dhtCsum } ∧
      t.regs.status.keyEvt = s.regs.status.keyEvt ∧ t.regs.status.keyOvr = s.regs.status.keyOvr ∧
      t.regs.status.swEvt = s.regs.status.swEvt ∧
      (s.seq = .idle ∨ runningCommand s.seq = some .dhtRead →
        t.regs.status.cmdRej = s.regs.status.cmdRej) ∧
      (t.regs.dhtData ≠ s.regs.dhtData → t.seq = .idle ∧ t.regs.status.err = .none) ∧
      t.ports = { s.ports with dhtO := t.ports.dhtO, dhtOe := t.ports.dhtOe } ∧
      t.work = { s.work with frame := t.work.frame, byte := t.work.byte, n := t.work.n } ∧
      t.env = { s.env with levels := t.env.levels, grants := t.env.grants, drawn := t.env.drawn } ∧
      t.params = s.params

/-- KEYPAD_RUN leaves every register but `STATUS`, `KEY_NEW` and `KEY_CUR`, the flag `SW_EVT`, and every
port but `KROW` as they are. (The working registers of the other commands are kept: the model's choice, log
entry 23.) -/
def Obligations.KeypadRunFrame : Prop :=
  ∀ s t : State, exec .keypadRun s = .next t →
    t.regs =
        { s.regs with status := t.regs.status, keyNew := t.regs.keyNew, keyCur := t.regs.keyCur } ∧
      t.regs.status.swEvt = s.regs.status.swEvt ∧
      (s.seq = .idle ∨ runningCommand s.seq = some .keypadRun →
        t.regs.status.cmdRej = s.regs.status.cmdRej) ∧
      (s.own.get .dht = none → t.ports = { s.ports with krow := t.ports.krow }) ∧
      t.work = { s.work with cur := t.work.cur, prev := t.work.prev } ∧
      t.env = { s.env with levels := t.env.levels, grants := t.env.grants, drawn := t.env.drawn } ∧
      t.params = s.params

/-- TILT_RUN and SLIDE_RUN leave every register but `STATUS` and `SW_STATE`, the key flags, and every port
but the indicators as they are. (The working registers of the other commands are kept: the model's choice, log
entry 23.) -/
def Obligations.SwitchTrackersFrame : Prop :=
  ∀ (s t : State) (i : Instr), i = .tiltRun ∨ (∃ i0 i1, i = .slideRun i0 i1) → exec i s = .next t →
    t.regs = { s.regs with status := t.regs.status, evCount := t.regs.evCount } ∧
      t.regs.status.keyEvt = s.regs.status.keyEvt ∧ t.regs.status.keyOvr = s.regs.status.keyOvr ∧
      (s.seq = .idle ∨ runningCommand s.seq = some i →
        t.regs.status.cmdRej = s.regs.status.cmdRej) ∧
      (s.own.get .dht = none →
        t.ports = { s.ports with ind0 := t.ports.ind0, ind1 := t.ports.ind1 }) ∧
      t.work = { s.work with swLast := t.work.swLast } ∧
      t.env = { s.env with levels := t.env.levels, grants := t.env.grants, drawn := t.env.drawn } ∧
      t.params = s.params
end

