-- ==== Sys2Proof/Laws/State.lean ====
section
/-! SUPPORT. What each named operation leaves in each field of the state. -/

namespace Sys2Proof.Machine

/-! ### The sequencer's moves -/

@[simp] theorem goto_regs (p : Seq) (s : State) : (goto p s).regs = s.regs := rfl
@[simp] theorem goto_ports (p : Seq) (s : State) : (goto p s).ports = s.ports := rfl
@[simp] theorem goto_seq (p : Seq) (s : State) : (goto p s).seq = p := rfl
@[simp] theorem goto_own (p : Seq) (s : State) : (goto p s).own = s.own := rfl
@[simp] theorem goto_work (p : Seq) (s : State) : (goto p s).work = s.work := rfl
@[simp] theorem goto_env (p : Seq) (s : State) : (goto p s).env = s.env := rfl
@[simp] theorem goto_held (p : Seq) (s : State) : (goto p s).held = s.held := rfl
@[simp] theorem goto_params (p : Seq) (s : State) : (goto p s).params = s.params := rfl

@[simp] theorem drive_regs (l : Line) (b : Bit) (s : State) : (drive l b s).regs = s.regs := rfl
@[simp] theorem drive_ports (l : Line) (b : Bit) (s : State) : (drive l b s).ports = drivePorts l b s.ports := rfl
@[simp] theorem drive_seq (l : Line) (b : Bit) (s : State) : (drive l b s).seq = s.seq := rfl
@[simp] theorem drive_own (l : Line) (b : Bit) (s : State) : (drive l b s).own = s.own := rfl
@[simp] theorem drive_work (l : Line) (b : Bit) (s : State) : (drive l b s).work = s.work := rfl
@[simp] theorem drive_env (l : Line) (b : Bit) (s : State) : (drive l b s).env = s.env := rfl
@[simp] theorem drive_held (l : Line) (b : Bit) (s : State) : (drive l b s).held = s.held := rfl
@[simp] theorem drive_params (l : Line) (b : Bit) (s : State) : (drive l b s).params = s.params := rfl

@[simp] theorem hold_regs (t : Nat) (s : State) : (hold t s).regs = s.regs := rfl
@[simp] theorem hold_ports (t : Nat) (s : State) : (hold t s).ports = s.ports := rfl
@[simp] theorem hold_seq (t : Nat) (s : State) : (hold t s).seq = s.seq := rfl
@[simp] theorem hold_own (t : Nat) (s : State) : (hold t s).own = s.own := rfl
@[simp] theorem hold_work (t : Nat) (s : State) : (hold t s).work = s.work := rfl
@[simp] theorem hold_env (t : Nat) (s : State) : (hold t s).env = s.env := rfl
@[simp] theorem hold_held (t : Nat) (s : State) : (hold t s).held = s.held + t := rfl
@[simp] theorem hold_params (t : Nat) (s : State) : (hold t s).params = s.params := rfl

@[simp] theorem setSwLast_regs (v : Bit) (s : State) : (setSwLast v s).regs = s.regs := rfl
@[simp] theorem setSwLast_ports (v : Bit) (s : State) : (setSwLast v s).ports = s.ports := rfl
@[simp] theorem setSwLast_seq (v : Bit) (s : State) : (setSwLast v s).seq = s.seq := rfl
@[simp] theorem setSwLast_own (v : Bit) (s : State) : (setSwLast v s).own = s.own := rfl
@[simp] theorem setSwLast_work (v : Bit) (s : State) : (setSwLast v s).work = { s.work with swLast := v } := rfl
@[simp] theorem setSwLast_env (v : Bit) (s : State) : (setSwLast v s).env = s.env := rfl
@[simp] theorem setSwLast_held (v : Bit) (s : State) : (setSwLast v s).held = s.held := rfl
@[simp] theorem setSwLast_params (v : Bit) (s : State) : (setSwLast v s).params = s.params := rfl

/-! ### Folding in what was sampled or received -/

@[simp] theorem foldMsb_regs (b : Bit) (s : State) : (foldMsb b s).regs = s.regs := rfl
@[simp] theorem foldMsb_ports (b : Bit) (s : State) : (foldMsb b s).ports = s.ports := rfl
@[simp] theorem foldMsb_seq (b : Bit) (s : State) : (foldMsb b s).seq = s.seq := rfl
@[simp] theorem foldMsb_own (b : Bit) (s : State) : (foldMsb b s).own = s.own := rfl
@[simp] theorem foldMsb_env (b : Bit) (s : State) : (foldMsb b s).env = s.env := rfl
@[simp] theorem foldMsb_held (b : Bit) (s : State) : (foldMsb b s).held = s.held := rfl
@[simp] theorem foldMsb_params (b : Bit) (s : State) : (foldMsb b s).params = s.params := rfl
@[simp] theorem foldLsb_regs (b : Bit) (i : Nat) (s : State) : (foldLsb b i s).regs = s.regs := rfl
@[simp] theorem foldLsb_ports (b : Bit) (i : Nat) (s : State) : (foldLsb b i s).ports = s.ports := rfl
@[simp] theorem foldLsb_seq (b : Bit) (i : Nat) (s : State) : (foldLsb b i s).seq = s.seq := rfl
@[simp] theorem foldLsb_own (b : Bit) (i : Nat) (s : State) : (foldLsb b i s).own = s.own := rfl
@[simp] theorem foldLsb_env (b : Bit) (i : Nat) (s : State) : (foldLsb b i s).env = s.env := rfl
@[simp] theorem foldLsb_held (b : Bit) (i : Nat) (s : State) : (foldLsb b i s).held = s.held := rfl
@[simp] theorem foldLsb_params (b : Bit) (i : Nat) (s : State) : (foldLsb b i s).params = s.params := rfl
@[simp] theorem foldMsb_work (b : Bit) (s : State) : (foldMsb b s).work = { s.work with msb := shiftIn s.work.msb b } := rfl
@[simp] theorem foldLsb_work (b : Bit) (i : Nat) (s : State) : (foldLsb b i s).work = { s.work with lsb := placeBit s.work.lsb b i } := rfl

@[simp] theorem markKey_regs (r c : Fin 4) (b : Bit) (s : State) : (markKey r c b s).regs = s.regs := by
  unfold markKey; split <;> rfl
@[simp] theorem markKey_ports (r c : Fin 4) (b : Bit) (s : State) : (markKey r c b s).ports = s.ports := by
  unfold markKey; split <;> rfl
@[simp] theorem markKey_seq (r c : Fin 4) (b : Bit) (s : State) : (markKey r c b s).seq = s.seq := by
  unfold markKey; split <;> rfl
@[simp] theorem markKey_own (r c : Fin 4) (b : Bit) (s : State) : (markKey r c b s).own = s.own := by
  unfold markKey; split <;> rfl
@[simp] theorem markKey_env (r c : Fin 4) (b : Bit) (s : State) : (markKey r c b s).env = s.env := by
  unfold markKey; split <;> rfl
@[simp] theorem markKey_held (r c : Fin 4) (b : Bit) (s : State) : (markKey r c b s).held = s.held := by
  unfold markKey; split <;> rfl
@[simp] theorem markKey_params (r c : Fin 4) (b : Bit) (s : State) : (markKey r c b s).params = s.params := by
  unfold markKey; split <;> rfl
theorem markKey_work (r c : Fin 4) (b : Bit) (s : State) :
    (markKey r c b s).work = { s.work with cur := if b = 1 then addKey s.work.cur r c else s.work.cur } := by
  unfold markKey; split <;> rfl

/-! ### Ownership -/

@[simp] theorem take_regs (l : Line) (d : Dir) (s : State) : (take l d s).regs = s.regs := rfl
@[simp] theorem take_seq (l : Line) (d : Dir) (s : State) : (take l d s).seq = s.seq := rfl
@[simp] theorem take_own (l : Line) (d : Dir) (s : State) : (take l d s).own = s.own.set l (some d) := rfl
@[simp] theorem take_work (l : Line) (d : Dir) (s : State) : (take l d s).work = s.work := rfl
@[simp] theorem take_env (l : Line) (d : Dir) (s : State) : (take l d s).env = s.env := rfl
@[simp] theorem take_held (l : Line) (d : Dir) (s : State) : (take l d s).held = s.held := rfl
@[simp] theorem take_params (l : Line) (d : Dir) (s : State) : (take l d s).params = s.params := rfl

@[simp] theorem releaseAll_regs (s : State) : (releaseAll s).regs = s.regs := rfl
@[simp] theorem releaseAll_seq (s : State) : (releaseAll s).seq = s.seq := rfl
@[simp] theorem releaseAll_own (s : State) : (releaseAll s).own = Own.empty := rfl
@[simp] theorem releaseAll_work (s : State) : (releaseAll s).work = s.work := rfl
@[simp] theorem releaseAll_env (s : State) : (releaseAll s).env = s.env := rfl
@[simp] theorem releaseAll_held (s : State) : (releaseAll s).held = s.held := rfl
@[simp] theorem releaseAll_params (s : State) : (releaseAll s).params = s.params := rfl

/-! ### Issue, rejection and reset -/

@[simp] theorem accept_ports (i : Instr) (s : State) : (accept i s).ports = s.ports := rfl
@[simp] theorem accept_seq (i : Instr) (s : State) : (accept i s).seq = startOf i := rfl
@[simp] theorem accept_own (i : Instr) (s : State) : (accept i s).own = s.own := rfl
@[simp] theorem accept_work (i : Instr) (s : State) : (accept i s).work = freshWork i s.work := rfl
@[simp] theorem accept_env (i : Instr) (s : State) : (accept i s).env = s.env := rfl
@[simp] theorem accept_held (i : Instr) (s : State) : (accept i s).held = 0 := rfl
@[simp] theorem accept_params (i : Instr) (s : State) : (accept i s).params = s.params := rfl

@[simp] theorem rejectBusy_regs (s : State) : (rejectBusy s).regs = { s.regs with status := { s.regs.status with cmdRej := 1 } } := rfl
@[simp] theorem rejectBusy_ports (s : State) : (rejectBusy s).ports = s.ports := rfl
@[simp] theorem rejectBusy_seq (s : State) : (rejectBusy s).seq = s.seq := rfl
@[simp] theorem rejectBusy_own (s : State) : (rejectBusy s).own = s.own := rfl
@[simp] theorem rejectBusy_work (s : State) : (rejectBusy s).work = s.work := rfl
@[simp] theorem rejectBusy_env (s : State) : (rejectBusy s).env = s.env := rfl
@[simp] theorem rejectBusy_held (s : State) : (rejectBusy s).held = s.held := rfl
@[simp] theorem rejectBusy_params (s : State) : (rejectBusy s).params = s.params := rfl

@[simp] theorem illegalCommand_regs (s : State) : (illegalCommand s).regs = { s.regs with status := { s.regs.status with err := .illegalCmd, done := 1 } } := rfl
@[simp] theorem illegalCommand_ports (s : State) : (illegalCommand s).ports = s.ports := rfl
@[simp] theorem illegalCommand_seq (s : State) : (illegalCommand s).seq = s.seq := rfl
@[simp] theorem illegalCommand_own (s : State) : (illegalCommand s).own = s.own := rfl
@[simp] theorem illegalCommand_work (s : State) : (illegalCommand s).work = s.work := rfl
@[simp] theorem illegalCommand_env (s : State) : (illegalCommand s).env = s.env := rfl
@[simp] theorem illegalCommand_held (s : State) : (illegalCommand s).held = s.held := rfl
@[simp] theorem illegalCommand_params (s : State) : (illegalCommand s).params = s.params := rfl

@[simp] theorem returnRead_regs (v : Word) (s : State) : (returnRead v s).regs = s.regs := rfl
@[simp] theorem returnRead_ports (v : Word) (s : State) : (returnRead v s).ports = s.ports := rfl
@[simp] theorem returnRead_seq (v : Word) (s : State) : (returnRead v s).seq = s.seq := rfl
@[simp] theorem returnRead_own (v : Word) (s : State) : (returnRead v s).own = s.own := rfl
@[simp] theorem returnRead_work (v : Word) (s : State) : (returnRead v s).work = s.work := rfl
@[simp] theorem returnRead_env (v : Word) (s : State) : (returnRead v s).env = { s.env with rdata := v } := rfl
@[simp] theorem returnRead_held (v : Word) (s : State) : (returnRead v s).held = s.held := rfl
@[simp] theorem returnRead_params (v : Word) (s : State) : (returnRead v s).params = s.params := rfl

@[simp] theorem assignX_regs (x : Nat) (s : State) : (assignX x s).regs = s.regs := rfl
@[simp] theorem assignX_ports (x : Nat) (s : State) : (assignX x s).ports = s.ports := rfl
@[simp] theorem assignX_seq (x : Nat) (s : State) : (assignX x s).seq = s.seq := rfl
@[simp] theorem assignX_own (x : Nat) (s : State) : (assignX x s).own = s.own := rfl
@[simp] theorem assignX_work (x : Nat) (s : State) : (assignX x s).work = s.work := rfl
@[simp] theorem assignX_held (x : Nat) (s : State) : (assignX x s).held = s.held := rfl
@[simp] theorem assignX_params (x : Nat) (s : State) : (assignX x s).params = s.params := rfl
@[simp] theorem assignX_env (x : Nat) (s : State) : (assignX x s).env = { s.env with x := x } := rfl

@[simp] theorem assertReset_regs (s : State) : (assertReset s).regs = State.reset.regs := rfl
@[simp] theorem assertReset_ports (s : State) : (assertReset s).ports = State.reset.ports := rfl
@[simp] theorem assertReset_seq (s : State) : (assertReset s).seq = State.reset.seq := rfl
@[simp] theorem assertReset_own (s : State) : (assertReset s).own = State.reset.own := rfl
@[simp] theorem assertReset_work (s : State) : (assertReset s).work = State.reset.work := rfl
@[simp] theorem assertReset_env (s : State) : (assertReset s).env = s.env := rfl
@[simp] theorem assertReset_held (s : State) : (assertReset s).held = State.reset.held := rfl
@[simp] theorem assertReset_params (s : State) : (assertReset s).params = s.params := rfl

/-! ### The environment's answers -/

@[simp] theorem drawLevel_regs (s : State) : (drawLevel s).2.regs = s.regs := by
  unfold drawLevel; split <;> rfl
@[simp] theorem drawLevel_ports (s : State) : (drawLevel s).2.ports = s.ports := by
  unfold drawLevel; split <;> rfl
@[simp] theorem drawLevel_seq (s : State) : (drawLevel s).2.seq = s.seq := by
  unfold drawLevel; split <;> rfl
@[simp] theorem drawLevel_own (s : State) : (drawLevel s).2.own = s.own := by
  unfold drawLevel; split <;> rfl
@[simp] theorem drawLevel_work (s : State) : (drawLevel s).2.work = s.work := by
  unfold drawLevel; split <;> rfl
@[simp] theorem drawLevel_held (s : State) : (drawLevel s).2.held = s.held := by
  unfold drawLevel; split <;> rfl
@[simp] theorem drawLevel_params (s : State) : (drawLevel s).2.params = s.params := by
  unfold drawLevel; split <;> rfl
@[simp] theorem drawLevel_env_grants (s : State) : (drawLevel s).2.env.grants = s.env.grants := by
  unfold drawLevel; split <;> rfl
@[simp] theorem drawLevel_env_host (s : State) : (drawLevel s).2.env.host = s.env.host := by
  unfold drawLevel; split <;> rfl
@[simp] theorem drawLevel_env_turns (s : State) : (drawLevel s).2.env.turns = s.env.turns := by
  unfold drawLevel; split <;> rfl
@[simp] theorem drawLevel_env_rdata (s : State) : (drawLevel s).2.env.rdata = s.env.rdata := by
  unfold drawLevel; split <;> rfl

@[simp] theorem drawGrant_regs (s : State) : (drawGrant s).2.regs = s.regs := by
  unfold drawGrant; split <;> rfl
@[simp] theorem drawGrant_ports (s : State) : (drawGrant s).2.ports = s.ports := by
  unfold drawGrant; split <;> rfl
@[simp] theorem drawGrant_seq (s : State) : (drawGrant s).2.seq = s.seq := by
  unfold drawGrant; split <;> rfl
@[simp] theorem drawGrant_own (s : State) : (drawGrant s).2.own = s.own := by
  unfold drawGrant; split <;> rfl
@[simp] theorem drawGrant_work (s : State) : (drawGrant s).2.work = s.work := by
  unfold drawGrant; split <;> rfl
@[simp] theorem drawGrant_held (s : State) : (drawGrant s).2.held = s.held := by
  unfold drawGrant; split <;> rfl
@[simp] theorem drawGrant_params (s : State) : (drawGrant s).2.params = s.params := by
  unfold drawGrant; split <;> rfl
@[simp] theorem drawGrant_env_levels (s : State) : (drawGrant s).2.env.levels = s.env.levels := by
  unfold drawGrant; split <;> rfl
@[simp] theorem drawGrant_env_host (s : State) : (drawGrant s).2.env.host = s.env.host := by
  unfold drawGrant; split <;> rfl
@[simp] theorem drawGrant_env_turns (s : State) : (drawGrant s).2.env.turns = s.env.turns := by
  unfold drawGrant; split <;> rfl
@[simp] theorem drawGrant_env_rdata (s : State) : (drawGrant s).2.env.rdata = s.env.rdata := by
  unfold drawGrant; split <;> rfl

@[simp] theorem sample_regs (l : Line) (s : State) : (sample l s).2.regs = s.regs := drawLevel_regs s
@[simp] theorem sample_ports (l : Line) (s : State) : (sample l s).2.ports = s.ports := drawLevel_ports s
@[simp] theorem sample_seq (l : Line) (s : State) : (sample l s).2.seq = s.seq := drawLevel_seq s
@[simp] theorem sample_own (l : Line) (s : State) : (sample l s).2.own = s.own := drawLevel_own s
@[simp] theorem sample_work (l : Line) (s : State) : (sample l s).2.work = s.work := drawLevel_work s
@[simp] theorem sample_held (l : Line) (s : State) : (sample l s).2.held = s.held := drawLevel_held s
@[simp] theorem sample_params (l : Line) (s : State) : (sample l s).2.params = s.params := drawLevel_params s
@[simp] theorem sample_env_grants (l : Line) (s : State) : (sample l s).2.env.grants = s.env.grants := drawLevel_env_grants s
@[simp] theorem sample_env_host (l : Line) (s : State) : (sample l s).2.env.host = s.env.host := drawLevel_env_host s
@[simp] theorem sample_env_turns (l : Line) (s : State) : (sample l s).2.env.turns = s.env.turns := drawLevel_env_turns s
@[simp] theorem sample_env_rdata (l : Line) (s : State) : (sample l s).2.env.rdata = s.env.rdata := drawLevel_env_rdata s

@[simp] theorem drawTurn_regs (s : State) : (drawTurn s).2.regs = s.regs := by
  unfold drawTurn; split <;> rfl
@[simp] theorem drawTurn_ports (s : State) : (drawTurn s).2.ports = s.ports := by
  unfold drawTurn; split <;> rfl
@[simp] theorem drawTurn_seq (s : State) : (drawTurn s).2.seq = s.seq := by
  unfold drawTurn; split <;> rfl
@[simp] theorem drawTurn_own (s : State) : (drawTurn s).2.own = s.own := by
  unfold drawTurn; split <;> rfl
@[simp] theorem drawTurn_work (s : State) : (drawTurn s).2.work = s.work := by
  unfold drawTurn; split <;> rfl
@[simp] theorem drawTurn_held (s : State) : (drawTurn s).2.held = s.held := by
  unfold drawTurn; split <;> rfl
@[simp] theorem drawTurn_params (s : State) : (drawTurn s).2.params = s.params := by
  unfold drawTurn; split <;> rfl
@[simp] theorem drawTurn_env_levels (s : State) : (drawTurn s).2.env.levels = s.env.levels := by
  unfold drawTurn; split <;> rfl
@[simp] theorem drawTurn_env_grants (s : State) : (drawTurn s).2.env.grants = s.env.grants := by
  unfold drawTurn; split <;> rfl
@[simp] theorem drawTurn_env_host (s : State) : (drawTurn s).2.env.host = s.env.host := by
  unfold drawTurn; split <;> rfl
@[simp] theorem drawTurn_env_rdata (s : State) : (drawTurn s).2.env.rdata = s.env.rdata := by
  unfold drawTurn; split <;> rfl

end Sys2Proof.Machine
end

