-- ==== Sys2Proof/Laws/Ops.lean ====
section
/-! SUPPORT. What each shared operation can do, said once: the draws of the environment, ownership,
acquisition, completion, acceptance, several micro-actions in a row, and the register window. -/

namespace Sys2Proof.Machine

/-! ### Draws with a queued answer -/

theorem sample_cons {l : Line} {s : State} {b : Bit} {rest : List Bit}
    (h : s.env.levels = b :: rest) :
    sample l s = (b, { s with env := { s.env with levels := rest } }) := by
  simp [sample, drawLevel, h]

theorem drawGrant_cons {s : State} {g : Grant} {rest : List Grant}
    (h : s.env.grants = g :: rest) :
    drawGrant s = (g, { s with env := { s.env with grants := rest } }) := by
  simp [drawGrant, h]

theorem drawTurn_cons {s : State} {t : Turn} {rest : List Turn} (h : s.env.turns = t :: rest) :
    drawTurn s = (t, { s with env := { s.env with turns := rest } }) := by
  simp [drawTurn, h]

/-! ### Ownership -/

@[simp] theorem Four.get_set_same {α : Type} (f : Four α) (i : Fin 4) (a : α) :
    (f.set i a).get i = a := by
  match i with
  | 0 => rfl
  | 1 => rfl
  | 2 => rfl
  | 3 => rfl

theorem Four.get_set_other {α : Type} (f : Four α) {i j : Fin 4} (a : α) (h : j ≠ i) :
    (f.set i a).get j = f.get j := by
  match i, j with
  | 0, 0 => exact absurd rfl h
  | 0, 1 => rfl
  | 0, 2 => rfl
  | 0, 3 => rfl
  | 1, 0 => rfl
  | 1, 1 => exact absurd rfl h
  | 1, 2 => rfl
  | 1, 3 => rfl
  | 2, 0 => rfl
  | 2, 1 => rfl
  | 2, 2 => exact absurd rfl h
  | 2, 3 => rfl
  | 3, 0 => rfl
  | 3, 1 => rfl
  | 3, 2 => rfl
  | 3, 3 => exact absurd rfl h

/-- Read after write of `OWN`, the same line. -/
@[simp] theorem Own.get_set_same (o : Own) (l : Line) (d : Option Dir) :
    (o.set l d).get l = d := by
  cases l <;> simp [Own.get, Own.set]

/-- Read after write of `OWN`, another line. -/
theorem Own.get_set_other (o : Own) {l l' : Line} (d : Option Dir) (h : l' ≠ l) :
    (o.set l d).get l' = o.get l' := by
  cases l <;> cases l' <;> first | rfl | exact absurd rfl h | skip
  · rename_i i j
    exact Four.get_set_other _ _ fun e => h (by rw [e])
  · rename_i i j
    exact Four.get_set_other _ _ fun e => h (by rw [e])

@[simp] theorem Own.get_empty (l : Line) : Own.empty.get l = none := by
  cases l <;> first | rfl | skip
  all_goals
    rename_i i
    match i with
    | 0 => rfl
    | 1 => rfl
    | 2 => rfl
    | 3 => rfl

/-! ### Ports under acquisition and release -/

theorem take_ports_of_ne {l : Line} (d : Dir) (s : State) (h : l ≠ .dht) :
    (take l d s).ports = s.ports := by
  cases l <;> first | rfl | exact absurd rfl h

@[simp] theorem take_dht_output (s : State) :
    (take .dht .output s).ports = { s.ports with dhtOe := 1 } := rfl

@[simp] theorem take_dht_input (s : State) :
    (take .dht .input s).ports = { s.ports with dhtOe := 0 } := rfl

theorem releaseAll_ports (s : State) :
    (releaseAll s).ports =
      { s.ports with dhtOe := if s.own.dht = none then s.ports.dhtOe else 0 } := by
  unfold releaseAll
  cases h : s.own.dht <;> simp

/-! ### Completion (R130) -/

@[simp] theorem complete_seq (c : ErrCode) (f : Regs → Regs) (s : State) :
    (complete c f s).seq = .idle := rfl
@[simp] theorem complete_own (c : ErrCode) (f : Regs → Regs) (s : State) :
    (complete c f s).own = Own.empty := rfl
@[simp] theorem complete_work (c : ErrCode) (f : Regs → Regs) (s : State) :
    (complete c f s).work = s.work := rfl
@[simp] theorem complete_env (c : ErrCode) (f : Regs → Regs) (s : State) :
    (complete c f s).env = s.env := rfl
@[simp] theorem complete_held (c : ErrCode) (f : Regs → Regs) (s : State) :
    (complete c f s).held = s.held := rfl
@[simp] theorem complete_params (c : ErrCode) (f : Regs → Regs) (s : State) :
    (complete c f s).params = s.params := rfl

theorem complete_ports (c : ErrCode) (f : Regs → Regs) (s : State) :
    (complete c f s).ports =
      { s.ports with dhtOe := if s.own.dht = none then s.ports.dhtOe else 0 } :=
  releaseAll_ports _

/-- Completion with NONE writes the results and then the outcome. -/
theorem complete_regs_none (f : Regs → Regs) (s : State) :
    (complete .none f s).regs =
      { f s.regs with
        status := { (f s.regs).status with err := .none, busy := 0, done := 1 } } := rfl

/-- An error writes the outcome and no result. -/
theorem raiseErr_regs (c : ErrCode) (s : State) :
    (raiseErr c s).regs =
      { s.regs with status := { s.regs.status with err := c, busy := 0, done := 1 } } := by
  cases c <;> rfl

@[simp] theorem raiseErr_seq (c : ErrCode) (s : State) : (raiseErr c s).seq = .idle := rfl
@[simp] theorem raiseErr_own (c : ErrCode) (s : State) : (raiseErr c s).own = Own.empty := rfl
@[simp] theorem raiseErr_work (c : ErrCode) (s : State) : (raiseErr c s).work = s.work := rfl
@[simp] theorem raiseErr_env (c : ErrCode) (s : State) : (raiseErr c s).env = s.env := rfl
@[simp] theorem raiseErr_held (c : ErrCode) (s : State) : (raiseErr c s).held = s.held := rfl
@[simp] theorem raiseErr_params (c : ErrCode) (s : State) : (raiseErr c s).params = s.params := rfl

theorem raiseErr_ports (c : ErrCode) (s : State) :
    (raiseErr c s).ports =
      { s.ports with dhtOe := if s.own.dht = none then s.ports.dhtOe else 0 } :=
  complete_ports _ _ _

/-! ### Acquisition (R11, R12) -/

/-- An `Acquire` owns the line and goes on, or ends the command with LINE_ACQ; nothing else. -/
theorem acquire_cases (l : Line) (d : Dir) (next : Seq) (s : State) :
    acquire l d next s = goto next (take l d (drawGrant s).2) ∨
      acquire l d next s = raiseErr .lineAcq (drawGrant s).2 := by
  unfold acquire
  split
  · rename_i s' h
    exact .inl (by rw [h])
  · rename_i s' h
    exact .inr (by rw [h])

theorem acquire_ok {l : Line} {d : Dir} {next : Seq} {s : State} {rest : List Grant}
    (h : s.env.grants = .ok :: rest) :
    acquire l d next s =
      goto next (take l d { s with env := { s.env with grants := rest } }) := by
  simp [acquire, drawGrant_cons h]

theorem acquire_fail {l : Line} {d : Dir} {next : Seq} {s : State} {rest : List Grant}
    (h : s.env.grants = .fail :: rest) :
    acquire l d next s = raiseErr .lineAcq { s with env := { s.env with grants := rest } } := by
  simp [acquire, drawGrant_cons h]

/-! ### Acceptance -/

theorem accept_regs (i : Instr) (s : State) :
    (accept i s).regs =
      { acceptanceClears i s.regs with
        status :=
          { (acceptanceClears i s.regs).status with busy := 1, done := 0, err := .none } } := rfl

@[simp] theorem runningCommand_startOf (i : Instr) : runningCommand (startOf i) = some i := by
  cases i <;> rfl

theorem startOf_ne_idle (i : Instr) : startOf i ≠ .idle := by
  cases i <;> exact Seq.noConfusion

@[simp] theorem acceptanceClears_cmd (i : Instr) (r : Regs) :
    (acceptanceClears i r).cmd = r.cmd := by
  cases i <;> rfl

@[simp] theorem acceptanceClears_cancel (i : Instr) (r : Regs) :
    (acceptanceClears i r).cancel = r.cancel := by
  cases i <;> rfl

/-! ### Runs without host access -/

@[simp] theorem execN_zero (i : Instr) (s : State) : execN 0 i s = .next s := rfl

theorem execN_succ {k : Nat} {i : Instr} {s t : State} (h : exec i s = .next t) :
    execN (k + 1) i s = execN k i t := by
  simp [execN, h]

/-- A run may be cut where one pleases. -/
theorem execN_add {j k : Nat} {i : Instr} {s t : State} (h : execN j i s = .next t) :
    execN (j + k) i s = execN k i t := by
  induction j generalizing s with
  | zero => cases h; simp
  | succ j ih =>
    rw [Nat.succ_add]
    simp only [execN] at h ⊢
    split at h
    · exact ih h
    · cases h
    · cases h

/-! ### The window (R43, R44, R51) -/

theorem windowOffset_reg (base : Nat) (r : Reg) :
    windowOffset base (base + regOffset r) 4 = .ok (regOffset r) := by
  have h : regOffset r ≤ 0x24 ∧ regOffset r % 4 = 0 := by cases r <;> decide
  unfold windowOffset
  rw [if_neg (by omega), if_neg (by omega)]
  congr 1
  omega

@[simp] theorem regAt_regOffset (r : Reg) : regAt (regOffset r) = some r := by
  cases r <;> rfl

@[simp] theorem readOffset_regOffset (s : State) (r : Reg) :
    readOffset s (regOffset r) = regWord s r := by
  simp [readOffset]

/-- A bus fault is one of an access outside the window, a narrow one or a misaligned one. -/
theorem windowOffset_cases (base addr width : Nat) :
    (windowOffset base addr width = .error .notDecoded ∧ (addr < base ∨ base + 0x3F < addr)) ∨
      (windowOffset base addr width = .error .busError ∧
        base ≤ addr ∧ addr ≤ base + 0x3F ∧ (width ≠ 4 ∨ (addr - base) % 4 ≠ 0)) ∨
      (windowOffset base addr width = .ok (addr - base) ∧
        base ≤ addr ∧ addr ≤ base + 0x3F ∧ width = 4 ∧ (addr - base) % 4 = 0) := by
  unfold windowOffset
  split
  · exact .inl ⟨rfl, ‹_›⟩
  · split
    · exact .inr (.inl ⟨rfl, by omega, by omega, ‹_›⟩)
    · exact .inr (.inr ⟨rfl, by omega, by omega, by omega, by omega⟩)

end Sys2Proof.Machine
end

