-- ==== Sys2Proof/Laws/Exec.lean ====
section
/-! SUPPORT. What `exec` and `step` can do, said once: the three cases of a command, the three turns of a
step, the outcomes of a micro-action of WaitLevel and of an iteration of WaitEdge. -/

namespace Sys2Proof.Machine

/-! ### The three cases of `exec` -/

/-- An idle block accepts a command (R66). -/
theorem exec_accept {i : Instr} {s : State} (h : s.seq = .idle) : exec i s = .next (accept i s) := by
  cases i <;>
    simp [exec, execSendBit, execRecvBit, execAdcRead, execDhtRead, execKeypadRun, execTiltRun,
      execSlideRun, h]

/-- The block that runs a command performs its next micro-action (R34). -/
theorem exec_running {i : Instr} {s : State} (h : runningCommand s.seq = some i) :
    exec i s = .next (match s.seq with
      | .idle => s
      | .sendBit v p => sendBitMicro v p s
      | .recvBit p => recvBitMicro p s
      | .adcRead ch p => adcMicro ch p s
      | .dhtRead p => dhtMicro p s
      | .keypadRun p => keypadMicro p s
      | .tiltRun p => tiltMicro p s
      | .slideRun i0 i1 p => slideMicro i0 i1 p s) := by
  rcases hq : s.seq with _ | ⟨v, p⟩ | p | ⟨ch, p⟩ | p | p | p | ⟨a, b, p⟩ <;> rw [hq] at h <;>
    simp [runningCommand] at h <;> subst h <;>
    simp [exec, execSendBit, execRecvBit, execAdcRead, execDhtRead, execKeypadRun, execTiltRun,
      execSlideRun, hq]

/-- A block that runs another command turns this one away (R66). -/
theorem exec_other {i : Instr} {s : State} (h : s.seq ≠ .idle) (h' : runningCommand s.seq ≠ some i) :
    exec i s = .next (rejectBusy s) := by
  rcases hq : s.seq with _ | ⟨v, p⟩ | p | ⟨ch, p⟩ | p | p | p | ⟨a, b, p⟩ <;>
    rw [hq] at h h' <;> cases i <;>
    simp_all [runningCommand, exec, execSendBit, execRecvBit, execAdcRead, execDhtRead,
      execKeypadRun, execTiltRun, execSlideRun]

/-- `exec` accepts, performs a micro-action, or turns away. -/
theorem exec_cases {i : Instr} {s t : State} (h : exec i s = .next t) :
    s.seq = .idle ∧ t = accept i s ∨ runningCommand s.seq = some i ∨
      ¬(s.seq = .idle ∨ runningCommand s.seq = some i) ∧ t = rejectBusy s := by
  by_cases h1 : s.seq = .idle
  · rw [exec_accept h1] at h
    cases h
    exact .inl ⟨h1, rfl⟩
  · by_cases h2 : runningCommand s.seq = some i
    · exact .inr (.inl h2)
    · rw [exec_other h1 h2] at h
      cases h
      exact .inr (.inr ⟨fun h => h.elim h1 h2, rfl⟩)

/-! ### The three turns of `step` -/

theorem step_host {s : State} {ts : List Turn} (h : s.env.turns = .host :: ts) :
    step s = hostTurn exec { s with env := { s.env with turns := ts } } := by
  simp [step, drawTurn_cons h]

theorem step_seq {s : State} {ts : List Turn} (h : s.env.turns = .seq :: ts) :
    step s = sequencerTurn exec { s with env := { s.env with turns := ts } } := by
  simp [step, drawTurn_cons h]

theorem step_rst {s : State} {ts : List Turn} (h : s.env.turns = .rst :: ts) :
    step s = .next (assertReset { s with env := { s.env with turns := ts } }) := by
  simp [step, drawTurn_cons h]

/-! ### The host's next statement -/

theorem nextStatement_cons {s : State} {h : HostStmt} {rest : List HostStmt}
    (e : s.env.host = h :: rest) : nextStatement s = some h := by
  simp [nextStatement, e]

theorem takeStatement_cons {s : State} {h : HostStmt} {rest : List HostStmt}
    (e : s.env.host = h :: rest) :
    takeStatement s = { s with env := { s.env with host := rest } } := by
  simp [takeStatement, e]

@[simp] theorem takeStatement_regs (s : State) : (takeStatement s).regs = s.regs := by
  unfold takeStatement; split <;> rfl
@[simp] theorem takeStatement_ports (s : State) : (takeStatement s).ports = s.ports := by
  unfold takeStatement; split <;> rfl
@[simp] theorem takeStatement_seq (s : State) : (takeStatement s).seq = s.seq := by
  unfold takeStatement; split <;> rfl
@[simp] theorem takeStatement_own (s : State) : (takeStatement s).own = s.own := by
  unfold takeStatement; split <;> rfl
@[simp] theorem takeStatement_work (s : State) : (takeStatement s).work = s.work := by
  unfold takeStatement; split <;> rfl
@[simp] theorem takeStatement_held (s : State) : (takeStatement s).held = s.held := by
  unfold takeStatement; split <;> rfl
@[simp] theorem takeStatement_params (s : State) : (takeStatement s).params = s.params := by
  unfold takeStatement; split <;> rfl

/-- Beginning a statement changes nothing of the block. -/
theorem takeStatement_eq (s : State) : takeStatement s = { s with env := (takeStatement s).env } := by
  unfold takeStatement; split <;> rfl

/-- Beginning a statement changes only the host's own fields. -/
theorem takeStatement_env (s : State) :
    (takeStatement s).env =
      { s.env with
        host := (takeStatement s).env.host
        drawn := (takeStatement s).env.drawn } := by
  unfold takeStatement; split <;> rfl

/-- A queued access is performed, and is off the list. -/
theorem hostTurn_access {run : Instr → State → Result} {s : State} {a : Access}
    {rest : List HostStmt} (h : s.env.host = .access a :: rest) :
    hostTurn run s = performAccess run a { s with env := { s.env with host := rest } } := by
  simp [hostTurn, nextStatement_cons h, takeStatement_cons h]

/-- A queued `POLL` is performed once. -/
theorem hostTurn_poll {run : Instr → State → Result} {s : State} {addr : Nat} {mask val : Word}
    {rest : List HostStmt} (h : s.env.host = .poll addr mask val :: rest) :
    hostTurn run s = performPoll addr mask val s := by
  simp [hostTurn, nextStatement_cons h]

/-- A queued assignment to the host variable `x` changes nothing but the host's side. -/
theorem hostTurn_clearX {run : Instr → State → Result} {s : State} {rest : List HostStmt}
    (h : s.env.host = .clearX :: rest) :
    hostTurn run s = .next (assignX 0 { s with env := { s.env with host := rest } }) := by
  simp [hostTurn, nextStatement_cons h, takeStatement_cons h]

theorem hostTurn_shiftX {run : Instr → State → Result} {s : State} {rest : List HostStmt}
    (h : s.env.host = .shiftX :: rest) :
    hostTurn run s =
      .next (assignX (shiftInStep s.env.x s.env.rdata)
        { s with env := { s.env with host := rest } }) := by
  simp [hostTurn, nextStatement_cons h, takeStatement_cons h]

/-- With nothing queued the host makes a free access, or none. -/
theorem hostTurn_nil {run : Instr → State → Result} {s : State} (h : s.env.host = []) :
    hostTurn run s =
      match Config.freeAccess s.env.drawn with
      | some a => performAccess run a { s with env := { s.env with drawn := s.env.drawn + 1 } }
      | none => .next { s with env := { s.env with drawn := s.env.drawn + 1 } } := by
  unfold hostTurn nextStatement takeStatement
  rw [h]
  cases Config.freeAccess s.env.drawn <;> rfl

/-! ### One micro-action of the two waits (R98, R114) -/

/-- A poll samples the line, or raises TIMEOUT with the state as it was. -/
theorem pollMicro_cases (site : WaitSite) (i : Nat) (s : State) :
    pollMicro site i s =
        goto (.dhtRead (.wait site (.seen i (sample .dht s).1))) (sample .dht s).2 ∧
          i < s.params.nWait ∨
      pollMicro site i s = raiseErr .timeout s ∧ ¬i < s.params.nWait := by
  unfold pollMicro
  split
  · exact .inl ⟨rfl, ‹_›⟩
  · exact .inr ⟨rfl, ‹_›⟩

/-- The return of a WaitLevel changes only the working registers of DHT_READ. -/
theorem waitReturns_eq (site : WaitSite) (i th : Nat) (w : Work) :
    waitReturns site i th w =
      { w with
        frame := (waitReturns site i th w).frame
        byte := (waitReturns site i th w).byte
        n := BitVec.ofNat 8 i } := by
  cases site <;> simp only [waitReturns, takeDhtBit]
  split <;> rfl

/-- The entry of a wait changes only `byte`. -/
theorem enterWait_eq (site : WaitSite) (w : Work) :
    enterWait site w = { w with byte := (enterWait site w).byte } := by
  cases site <;> simp only [enterWait]
  split <;> rfl

/-- What follows a WaitLevel is a poll of the next wait, or the end of the command; `n` then holds the
count, and no working register of another command has changed. -/
theorem afterWait_cases (site : WaitSite) (i : Nat) (s : State) :
    (∃ site' f y, site.next = some site' ∧
        afterWait site i s =
          pollMicro site' 0
            { s with work := { s.work with frame := f, byte := y, n := BitVec.ofNat 8 i } }) ∨
      ∃ f y, site.next = none ∧
        afterWait site i s =
          dhtFinish { s with work := { s.work with frame := f, byte := y, n := BitVec.ofNat 8 i } } := by
  have hw := waitReturns_eq site i s.params.dhtThresh s.work
  unfold afterWait
  generalize waitReturns site i s.params.dhtThresh s.work = w at hw ⊢
  cases h : site.next with
  | some site' =>
    refine .inl ⟨site', w.frame, (enterWait site' w).byte, rfl, ?_⟩
    exact congrArg (fun x => pollMicro site' 0 { s with work := x })
      ((enterWait_eq site' w).trans
        (congrArg (fun x : Work => { x with byte := (enterWait site' w).byte }) hw))
  | none =>
    exact .inr ⟨w.frame, w.byte, rfl, congrArg (fun x => dhtFinish { s with work := x }) hw⟩

/-- The end of DHT_READ is one of two completions. -/
theorem dhtFinish_cases (s : State) :
    dhtFinish s = complete .none (dhtResult s.work.frame) s ∧ frameValid s.work.frame = true ∨
      dhtFinish s = raiseErr .checksum s ∧ frameValid s.work.frame = false := by
  unfold dhtFinish
  cases frameValid s.work.frame
  · exact .inr ⟨rfl, rfl⟩
  · exact .inl ⟨rfl, rfl⟩

/-- A micro-action of a WaitLevel polls, holds, polls the next wait, or ends the command; whatever it
evaluates first changes only the working registers of DHT_READ. -/
theorem waitMicro_cases (site : WaitSite) (p : WaitPos) (s : State) :
    (∃ site' i f y n,
        waitMicro site p s =
          pollMicro site' i { s with work := { s.work with frame := f, byte := y, n := n } }) ∨
      (∃ i b, p = .seen i b ∧
        waitMicro site p s =
          goto (.dhtRead (.wait site (.poll (i + 1)))) (hold s.params.tPoll s)) ∨
      ∃ f y n,
        waitMicro site p s =
          dhtFinish { s with work := { s.work with frame := f, byte := y, n := n } } := by
  cases p with
  | poll i => exact .inl ⟨site, i, s.work.frame, s.work.byte, s.work.n, rfl⟩
  | seen i b =>
    simp only [waitMicro]
    split
    · rcases afterWait_cases site i s with ⟨site', f, y, _, e⟩ | ⟨f, y, _, e⟩
      · exact .inl ⟨site', 0, f, y, _, e⟩
      · exact .inr (.inr ⟨f, y, _, e⟩)
    · exact .inr (.inl ⟨i, b, rfl, rfl⟩)

/-- An iteration of WaitEdge sees `CANCEL`, or takes one sample that is an edge or is not. -/
theorem waitEdgeMicro_cases (s : State) :
    waitEdgeMicro s = (.cancelled, s) ∧ s.regs.cancel = 1 ∨
      waitEdgeMicro s = (.quiet, (sample .swIn s).2) ∧ s.regs.cancel ≠ 1 ∨
      ∃ e, waitEdgeMicro s = (.edge e, (sample .swIn s).2) ∧ e ≠ s.work.swLast ∧
        s.regs.cancel ≠ 1 := by
  unfold waitEdgeMicro
  by_cases h : s.regs.cancel = 1
  · exact .inl ⟨by simp [h], h⟩
  · rw [if_neg h]
    have hw := sample_work .swIn s
    rcases hs : sample .swIn s with ⟨b, s'⟩
    rw [hs] at hw
    simp only at hw ⊢
    split
    · rename_i hb
      rw [hw] at hb
      exact .inr (.inr ⟨b, rfl, hb, h⟩)
    · exact .inr (.inl ⟨rfl, h⟩)

end Sys2Proof.Machine
end

