-- ==== Sys2Proof/Laws/PerInstr.lean ====
section
/-! SUPPORT. A statement about every command, made command by command: what the encoder writes is a legal
command word. -/

namespace Sys2Proof.Laws.LegalEncoding

/-- The command's word is legal (30_encoding.md rule R64). -/
def Statement (i : Instr) : Prop := legal (encode i) = true

theorem sendBit (v : BitVec 1) : Statement (.sendBit v) := by
  revert v; unfold Statement; decide

theorem recvBit : Statement .recvBit := by
  unfold Statement; decide

theorem adcRead (ch : BitVec 2) : Statement (.adcRead ch) := by
  revert ch; unfold Statement; decide

theorem dhtRead : Statement .dhtRead := by
  unfold Statement; decide

theorem keypadRun : Statement .keypadRun := by
  unfold Statement; decide

theorem tiltRun : Statement .tiltRun := by
  unfold Statement; decide

theorem slideRun (i0 i1 : BitVec 1) : Statement (.slideRun i0 i1) := by
  revert i0 i1; unfold Statement; decide

end Sys2Proof.Laws.LegalEncoding
end

