-- ==== Sys2Proof/Tests/Slice0.lean ====
section
/-! SUPPORT. Small tests of the model: the checks on what is written down, command words written out from
the encoding table, single steps from the spec's test vectors (95_test_vectors.md), and for every statement
that has hypotheses a concrete state and operands that meet them. -/

namespace Sys2Proof.Tests

open Sys2Proof.Machine

/-! ### What a programmer or a platform writes down (R7, R42, R76, R77, R84) -/

theorem test_wf_refuses_value : (Asm.sendBit 2).WellFormed = false := by decide
theorem test_wf_refuses_channel : (Asm.adcRead 4).WellFormed = false := by decide
theorem test_wf_refuses_first_level : (Asm.slideRun 2 0).WellFormed = false := by decide
theorem test_wf_refuses_second_level : (Asm.slideRun 0 2).WellFormed = false := by decide
theorem test_wf_accepts :
    (Asm.sendBit 1).WellFormed = true ∧ (Asm.adcRead 3).WellFormed = true ∧
      (Asm.slideRun 1 1).WellFormed = true := by decide

theorem test_params_default : Params.default.WellFormed = true := by decide
theorem test_params_refuses_short_hold :
    ({ Params.default with tHold := 1999 } : Params).WellFormed = false := by decide
theorem test_params_refuses_base :
    ({ Params.default with base := 0x40000020 } : Params).WellFormed = false := by decide
theorem test_params_refuses_wait :
    ({ Params.default with nWait := 257 } : Params).WellFormed = false := by decide
theorem test_params_refuses_labels :
    ({ Params.default with keyLabel := ['1'] } : Params).WellFormed = false := by decide

/-- W4: under the default table 'A' is key (0, 3). -/
theorem test_label : Params.default.label 0 3 = some 'A' ∧ keyIndex 0 3 = 3 := by decide

/-! ### Words written out from the encoding table (R61 to R63), and assembly (R77) -/

/-- `V` is bit 4, `OP` is 0001. -/
theorem test_decode_sendBit :
    decode 0b00000000000000000000000000010001#32 = .ok (.sendBit 1) := by decide
theorem test_decode_recvBit :
    decode 0b00000000000000000000000000000010#32 = .ok .recvBit := by decide
/-- `CH` is bits 5:4: 10 is channel 2. -/
theorem test_decode_adcRead :
    decode 0b00000000000000000000000000100011#32 = .ok (.adcRead 2) := by decide
theorem test_decode_dhtRead :
    decode 0b00000000000000000000000000000100#32 = .ok .dhtRead := by decide
theorem test_decode_keypadRun :
    decode 0b00000000000000000000000000000101#32 = .ok .keypadRun := by decide
theorem test_decode_tiltRun :
    decode 0b00000000000000000000000000000110#32 = .ok .tiltRun := by decide
/-- `I0` is bit 4, `I1` is bit 5. -/
theorem test_decode_slideRun :
    decode 0b00000000000000000000000000100111#32 = .ok (.slideRun 0 1) := by decide
/-- V-E3, V-E8, V-E11. -/
theorem test_decode_illegal :
    decode 0x21#32 = .error .unusedArgument ∧ decode 0x0#32 = .error .reservedOpcode ∧
      decode 0x104#32 = .error .reservedBits := by decide
theorem test_table_word : decodeTableWord 32 0x17 = some (.slideRun 1 0) := by decide
theorem test_decode_bytes :
    decodeBytes [0x33, 0, 0, 0, 0x02] = some (.ok (.adcRead 3), [0x02]) := by decide
theorem test_assembly_line :
    assembleLine ['S', 'L', 'I', 'D', 'E', '_', 'R', 'U', 'N', ' ', '1', ',', ' ', '0', 'x', '0'] =
      some 0x17#32 := by decide
theorem test_assembly_error :
    assembleLine ['A', 'D', 'C', '_', 'R', 'E', 'A', 'D', ' ', '4'] = none := by decide

/-! ### Helpers -/

/-- The block at the position `q` with `cw` in `CMD`: everything else is what reset leaves, but for what the
position itself determines; the environment and the host are about to do what the lists say. -/
def placed (q : Seq) (cw : Word) (levels : List Bit) (grants : List Grant) (host : List HostStmt)
    (turns : List Turn) : State :=
  { State.reset with
    regs :=
      { State.reset.regs with
        cmd := cw
        status := { State.reset.regs.status with busy := if q = .idle then 0 else 1 } }
    ports :=
      { State.reset.ports with
        sclk := if clockLowAt q then 0 else 1
        csN := if selectedAt q then 0 else 1
        krow := rowsAt q
        dhtOe := if (ownAt q).dht = some .output then 1 else 0 }
    seq := q
    own := ownAt q
    env := { levels := levels, grants := grants, host := host, turns := turns, rdata := 0, x := 0, drawn := 0 } }

/-- A placed state meets the invariant if `CMD` holds the running command. -/
theorem placed_inv (q : Seq) (cw : Word) (levels : List Bit) (grants : List Grant)
    (host : List HostStmt) (turns : List Turn)
    (hc : ∀ i, runningCommand q = some i → decode cw = .ok i) (hw : waitAt 255 q = true) :
    (placed q cw levels grants host turns).Inv where
  busy := by by_cases h : q = .idle <;> simp [placed, h]
  pending := fun _ => ⟨rfl, rfl⟩
  coherent := hc
  owned := rfl
  driven := by by_cases h : (ownAt q).dht = some .output <;> simp [placed, h]
  clock := rfl
  select := rfl
  rows := rfl
  keyEvent := by simp [placed, State.reset]
  keyCur := by cases q <;> trivial
  invalid := by cases q <;> trivial
  waits := hw
  checked := fun h => by simp [placed, State.reset] at h

/-- The invariant of a placed state that runs `i`. -/
theorem placed_run {q : Seq} {cw : Word} (i : Instr) (levels : List Bit) (grants : List Grant)
    (host : List HostStmt) (turns : List Turn) (hr : runningCommand q = some i)
    (hd : decode cw = .ok i) (hw : waitAt 255 q = true) :
    (placed q cw levels grants host turns).Inv :=
  placed_inv q cw levels grants host turns
    (fun j h => by rw [hr] at h; cases h; exact hd) hw

/-- The invariant of a placed idle state. -/
theorem placed_idle (cw : Word) (levels : List Bit) (grants : List Grant) (host : List HostStmt)
    (turns : List Turn) : (placed .idle cw levels grants host turns).Inv :=
  placed_inv .idle cw levels grants host turns (fun _ h => by cases h) rfl

/-- `r` is a next state with the property `p`. -/
def goes (r : Result) (p : State → Bool) : Bool :=
  match r with
  | .next t => p t
  | _ => false

/-- The host writes `w` at `addr`. -/
def wr (addr : Nat) (w : Word) : HostStmt := .access (.write addr 4 w)

/-- The host reads at `addr`. -/
def rd (addr : Nat) : HostStmt := .access (.read addr 4)

/-! ### Single steps of each command -/

/-- V-T2: `SDO` takes the bit while the clock is low. -/
theorem test_sendBit_data :
    goes (exec (.sendBit 1) (placed (.sendBit 1 (.send .data)) 0x11 [] [] [] []))
      (fun t => t.ports.sdo == 1 && t.ports.sclk == 0) = true := by decide
/-- V-T6: the clock is not granted, `STATUS` = 0x12. -/
theorem test_sendBit_fail :
    goes (exec (.sendBit 1) (placed (.sendBit 1 .acquireClock) 0x11 [] [.fail] [] []))
      (fun t => regWord t .status == 0x12 && t.ports == State.reset.ports) = true := by decide

/-- V-T4: `RXBIT` = 0x80000001 and `STATUS` = 0x02 at the end. -/
theorem test_recvBit_end :
    goes (exec .recvBit (placed (.recvBit (.finish 1)) 0x02 [] [] [] []))
      (fun t => regWord t .rxbit == 0x80000001 && regWord t .status == 0x02) = true := by decide
/-- V-T3: acceptance clears `VALID` of 0x80000001 and keeps `BIT`. -/
theorem test_recvBit_accept :
    goes
      (exec .recvBit
        { State.reset with regs := { State.reset.regs with rxbit := { bit := 1, valid := 1 } } })
      (fun t => regWord t .rxbit == 0x00000001 && regWord t .status == 0x01) = true := by decide

/-- V-A4: msb = lsb = 0xA5 on channel 2 gives `ADC_DATA` = 0x800002A5. -/
theorem test_adcRead_agree :
    goes
      (exec (.adcRead 2)
        { placed (.adcRead 2 .finish) 0x23 [] [] [] [] with
          work := { State.reset.work with msb := 0xA5, lsb := 0xA5 } })
      (fun t => regWord t .adcData == 0x800002A5 && regWord t .status == 0x02) = true := by decide
/-- V-A5: msb = 0xA5 and lsb = 0x01 give `STATUS` = 0x42. -/
theorem test_adcRead_disagree :
    goes
      (exec (.adcRead 2)
        { placed (.adcRead 2 .finish) 0x23 [] [] [] [] with
          work := { State.reset.work with msb := 0xA5, lsb := 0x01 } })
      (fun t => regWord t .adcData == 0 && regWord t .status == 0x42) = true := by decide

/-- V-D2: the sum 0x200 modulo 256 is the checksum 0x00. -/
theorem test_dhtRead_checksum :
    goes
      (exec .dhtRead
        { placed (.dhtRead (.wait (.rise 4 7) (.seen 0 1))) 0x04 [] [] [] [] with
          work := { State.reset.work with frame := ⟨0xFF, 0x01, 0x80, 0x80, 0x00⟩ } })
      (fun t => regWord t .dhtData == 0x808001FF && regWord t .dhtCsum == 0x80000000 &&
        regWord t .status == 0x02) = true := by decide
/-- V-D8: at the 256th poll the wait times out, the line is released, `STATUS` = 0x22. -/
theorem test_dhtRead_timeout :
    goes (exec .dhtRead (placed (.dhtRead (.wait (.rise 0 0) (.poll 255))) 0x04 [] [] [] []))
      (fun t => regWord t .status == 0x22 && t.ports.dhtOe == 0) = true := by decide

/-- V-K3, second pass: {(0,0), (0,1)} after {(0,0)} unacknowledged. -/
theorem test_keypadRun_overrun :
    goes
      (exec .keypadRun
        { placed (.keypadRun .endOfPass) 0x05 [] [] [] [] with
          regs :=
            { State.reset.regs with
              keyNew := 0x0001
              keyCur := 0x0001
              status := { State.reset.regs.status with busy := 1, keyEvt := 1 } }
          work := { State.reset.work with cur := 0x0003, prev := 0x0001 } })
      (fun t => regWord t .keyNew == 0x0003 && regWord t .status == 0x301) = true := by decide
/-- V-K6: column 3 of row 2 has read 1; with the row's fall key (2, 3), bit 11, is marked. -/
theorem test_keypadRun_column :
    goes (exec .keypadRun (placed (.keypadRun (.seen 2 3 1)) 0x05 [] [] [] []))
      (fun t => t.work.cur == 0x0800 && t.ports.krow == 0x0 && t.seq == .keypadRun (.rowHigh 3)) =
      true := by decide

/-- V-S2: the settled level 0 is reported with `SW_STATE` = 0x00000104. -/
theorem test_tiltRun_report :
    goes (exec .tiltRun (placed (.tiltRun (.report 0)) 0x06 [] [] [] []))
      (fun t => regWord t .swState == 0x00000104 && regWord t .status == 0x401) = true := by decide
/-- V-S4: the next iteration of WaitEdge is cancelled before it samples. -/
theorem test_tiltRun_cancel :
    goes
      (exec .tiltRun
        { placed (.tiltRun .waitEdge) 0x06 [1] [] [] [] with
          regs := { State.reset.regs with cancel := 1 } })
      (fun t => t.seq == .tiltRun .cancelled && t.env.levels == [1]) = true := by decide

/-- V-S5: one edge to 1 after `SLIDE_RUN 1, 0` gives `SW_STATE` = 0x00000105. -/
theorem test_slideRun_toggle :
    goes
      (exec (.slideRun 1 0)
        { placed (.slideRun 1 0 (.toggle 1)) 0x17 [] [] [] [] with
          ports := { State.reset.ports with ind0 := 1, ind1 := 0 } })
      (fun t => regWord t .swState == 0x00000105) = true := by decide
/-- V-S8: `EVCOUNT` wraps at 256. -/
theorem test_slideRun_wrap :
    goes
      (exec (.slideRun 0 0)
        { placed (.slideRun 0 0 (.toggle 0)) 0x07 [] [] [] [] with
          regs := { State.reset.regs with evCount := 0xFF } })
      (fun t => t.regs.evCount == 0 && t.ports.ind0 == 1 && t.ports.ind1 == 1) = true := by decide

/-! ### Single host accesses -/

/-- R79: the assignment of `SHIFT_IN` takes bit 0 of the word read, and loses no bit of `x`. -/
theorem test_host_shift :
    goes (step
        { placed .idle 0 [] [] [.shiftX] [.host] with
          env :=
            { (placed .idle 0 [] [] [.shiftX] [.host]).env with x := 0x1FFFFFFFF, rdata := 0x80000001 } })
      (fun t => t.env.x == 0x3FFFFFFFF) = true := by decide
/-- V-E13: a command written while KEYPAD_RUN runs is rejected and `CMD` stays 0x05. -/
theorem test_host_busy :
    goes (step (placed (.keypadRun .top) 0x05 [] [] [wr 0x40000000 0x03] [.host]))
      (fun t => regWord t .status == 0x05 && regWord t .cmd == 0x05 && t.seq == .keypadRun .top) =
      true := by decide
/-- V-E6: an illegal word, `STATUS` = 0x52. -/
theorem test_host_illegal :
    goes (step (placed .idle 0 [] [] [wr 0x40000000 0x43] [.host]))
      (fun t => regWord t .status == 0x52 && regWord t .cmd == 0x43 && t.seq == .idle) = true := by
  decide
/-- V-K4: the acknowledge clears `KEY_EVT` and `KEY_NEW` and leaves `KEY_OVR`. -/
theorem test_host_ackKey :
    goes
      (step
        { placed .idle 0x05 [] [] [wr 0x40000004 0x100] [.host] with
          regs :=
            { State.reset.regs with
              keyNew := 0x0003
              keyCur := 0x0003
              status := { State.reset.regs.status with keyEvt := 1, keyOvr := 1 } } })
      (fun t => regWord t .status == 0x200 && regWord t .keyNew == 0 && regWord t .keyCur == 3) =
      true := by decide
/-- V-H4: a 16-bit read of 0x04 and a read of 0x06 are bus errors. -/
theorem test_host_busError :
    step (placed .idle 0 [] [] [.access (.read 0x40000004 2)] [.host]) = .fault .busError ∧
      step (placed .idle 0 [] [] [rd 0x40000006] [.host]) = .fault .busError := ⟨rfl, rfl⟩
/-- The placed instruction is the next step's. -/
theorem test_fetch :
    goes (step (State.reset.withFetchWord 32 0x33))
      (fun t => t.seq == .adcRead 3 .acquireSelect && regWord t .status == 0x01) = true := by decide

/-! ### Witnesses: for each statement with hypotheses, a state and operands that meet them all -/

/-- CmdWriteIssuesCommand, the block busy. -/
theorem witness_cmd_busy :
    let s := placed (.keypadRun .top) 0x05 [] [] [hostW 0x40000000 .cmd 0x03] [.host]
    s.Inv ∧ s.env.turns = .host :: [] ∧ s.env.host = hostW s.params.base .cmd 0x03 :: [] ∧
      s.regs.status.busy = 1 :=
  ⟨placed_run .keypadRun _ _ _ _ rfl rfl rfl, rfl, rfl, rfl⟩

/-- CmdWriteIssuesCommand, an idle block and an illegal word. -/
theorem witness_cmd_illegal :
    let s := placed .idle 0 [] [] [hostW 0x40000000 .cmd 0x43] [.host]
    s.Inv ∧ s.env.turns = .host :: [] ∧ s.env.host = hostW s.params.base .cmd 0x43 :: [] ∧
      s.regs.status.busy ≠ 1 ∧ legal 0x43 = false :=
  ⟨placed_idle _ _ _ _ _, rfl, rfl, by decide, by decide⟩

/-- CmdWriteIssuesCommand, an idle block and a legal word. -/
theorem witness_cmd_legal :
    let s := placed .idle 0 [] [] [hostW 0x40000000 .cmd 0x33] [.host]
    s.Inv ∧ s.env.turns = .host :: [] ∧ s.env.host = hostW s.params.base .cmd 0x33 :: [] ∧
      s.regs.status.busy ≠ 1 ∧ decode 0x33 = .ok (.adcRead 3) :=
  ⟨placed_idle _ _ _ _ _, rfl, rfl, by decide, by decide⟩

/-- AcceptanceClearsPerCommand. -/
theorem witness_acceptance : State.reset.seq = .idle := rfl

/-- StepRunsDecodedCommand, the host's turn. -/
theorem witness_step_host :
    let s := placed .idle 0 [] [] [hostW 0x40000000 .cmd 0x11] [.host]
    s.env.turns = .host :: [] ∧ s.env.host = hostW s.params.base .cmd 0x11 :: [] ∧
      s.regs.status.busy = 0 ∧ decode 0x11 = .ok (.sendBit 1) :=
  ⟨rfl, rfl, rfl, by decide⟩

/-- StepRunsDecodedCommand, the sequencer's turn. -/
theorem witness_step_seq :
    let s := placed (.dhtRead .driveLow) 0x04 [] [] [] [.seq]
    s.env.turns = .seq :: [] ∧ runningCommand s.seq = some .dhtRead := ⟨rfl, rfl⟩

/-- IdleBlockRunsNothing. -/
theorem witness_idle :
    let s := placed .idle 0 [] [] [] [.seq]
    s.env.turns = .seq :: [] ∧ s.seq = .idle := ⟨rfl, rfl⟩

/-- ResetSetsEveryRegisterAndPort, during ADC_READ after the third header bit (V-H6). -/
theorem witness_reset :
    (placed (.adcRead 1 (.header 3 .clockLow)) 0x13 [] [] [] [.rst]).env.turns = .rst :: [] := rfl

/-- ShiftOutSendsBitsMsbFirst, both assignments of `SHIFT_IN`. -/
theorem witness_shift_in :
    ∀ h ∈ [HostStmt.clearX, .shiftX],
      let s := placed .idle 0 [] [] [h] [.host]
      s.env.turns = .host :: [] ∧ s.env.host = h :: [] := by decide

/-- EveryCommandAnswersANextState: a command written right after a completion. -/
theorem witness_next_command :
    let s := placed (.sendBit 0 .finish) 0x01 [] [] [hostW 0x40000000 .cmd 0x02] [.host]
    runningCommand s.seq = some (.sendBit 0) ∧ decode 0x02 = .ok .recvBit ∧
      ∃ t, exec (.sendBit 0) s = .next t ∧ t.seq = .idle ∧ t.env.turns = .host :: [] ∧
        t.env.host = hostW t.params.base .cmd 0x02 :: [] :=
  ⟨rfl, rfl, _, rfl, rfl, rfl, rfl⟩

/-- OnlyBadHostAccessStops. -/
theorem witness_stop : ∃ f, step (placed .idle 0 [] [] [rd 0x40000006] [.host]) = .fault f :=
  ⟨_, rfl⟩

/-- ReadsHaveNoSideEffects, the first and the last word of the window. -/
theorem witness_read :
    ∀ k ∈ [(0 : Fin 16), 9, 10, 15],
      let s := placed .idle 0 [] [] [rd (0x40000000 + 4 * k.val)] [.host]
      s.env.turns = .host :: [] ∧
        s.env.host = .access (.read (s.params.base + 4 * k.val) 4) :: [] := by decide

/-- ReservedOffsetsReadZeroAndIgnoreWrites, the first and the last reserved offset. -/
theorem witness_reserved :
    ∀ k ∈ [(0 : Fin 6), 5],
      let s := placed .idle 0 [] [] [rd (0x40000028 + 4 * k.val)] [.host]
      let s' := placed .idle 0 [] [] [wr (0x40000028 + 4 * k.val) 1] [.host]
      s.env.turns = .host :: [] ∧
        s.env.host = .access (.read (s.params.base + 0x28 + 4 * k.val) 4) :: [] ∧
        s'.env.turns = .host :: [] ∧
        s'.env.host = .access (.write (s'.params.base + 0x28 + 4 * k.val) 4 1) :: [] := by decide

/-- BadAccessesFault, at both ends of the window: narrow, misaligned, below, above. -/
theorem witness_bad_access :
    ∀ c ∈ [(0x40000000, 1), (0x4000003F, 4), (0x4000003C, 8), (0x3FFFFFFF, 4), (0x40000040, 4)],
      let s := placed .idle 0 [] [] [.access (.read c.1 c.2)] [.host]
      let s' := placed .idle 0 [] [] [.access (.write c.1 c.2 0)] [.host]
      s.env.turns = .host :: [] ∧ s.env.host = .access (.read c.1 c.2) :: [] ∧
        s'.env.turns = .host :: [] ∧ s'.env.host = .access (.write c.1 c.2 0) :: [] ∧
        (s.params.base ≤ c.1 ∧ c.1 ≤ s.params.base + 0x3F ∧
            (c.2 ≠ 4 ∨ (c.1 - s.params.base) % 4 ≠ 0) ∨
          c.1 < s.params.base ∨ s.params.base + 0x3F < c.1) := by decide

/-- WritesHaveOnlyTheirSideEffects, every register but `CMD`. -/
theorem witness_writes :
    ∀ r ∈ [Reg.status, .ctrl, .rxbit, .adcData, .dhtData, .dhtCsum, .keyNew, .keyCur, .swState],
      let s := placed .idle 0 [] [] [hostW 0x40000000 r 0x101] [.host]
      s.env.turns = .host :: [] ∧ s.env.host = hostW s.params.base r 0x101 :: [] := by decide

/-- PollReadsUntilTheValue, a value that is there and one that is not. -/
theorem witness_poll :
    let s := placed .idle 0 [] [] [hostPoll 0x40000000 .status 0x1 0x0] [.host]
    let s' := placed .idle 0 [] [] [hostPoll 0x40000000 .status 0x1 0x1] [.host]
    s.env.turns = .host :: [] ∧ s.env.host = hostPoll s.params.base .status 0x1 0x0 :: [] ∧
      regWord s .status &&& 0x1 = 0x0 ∧ s'.env.turns = .host :: [] ∧
      s'.env.host = hostPoll s'.params.base .status 0x1 0x1 :: [] ∧
      regWord s' .status &&& 0x1 ≠ 0x1 :=
  ⟨rfl, rfl, by decide, rfl, rfl, by decide⟩

/-- HostAccessLeavesRunningCommandAlone. -/
theorem witness_host_access :
    let s := placed (.dhtRead .driveLow) 0x04 [] [] [wr 0x40000004 0x7FF] [.host]
    s.env.turns = .host :: [] ∧ s.regs.status.busy = 1 ∧ ∃ t, step s = .next t :=
  ⟨rfl, rfl, _, rfl⟩

/-- EveryStepKeepsInvariant, one step of each agent. -/
theorem witness_inv :
    ((placed (.recvBit (.finish 1)) 0x02 [] [] [] [.seq]).Inv ∧
        ∃ t, step (placed (.recvBit (.finish 1)) 0x02 [] [] [] [.seq]) = .next t) ∧
      ((placed .idle 0 [] [] [wr 0x40000000 0x05] [.host]).Inv ∧
        ∃ t, step (placed .idle 0 [] [] [wr 0x40000000 0x05] [.host]) = .next t) ∧
      (placed .idle 0 [] [] [] [.rst]).Inv ∧ ∃ t, step (placed .idle 0 [] [] [] [.rst]) = .next t :=
  ⟨⟨placed_run .recvBit _ _ _ _ rfl rfl rfl, _, rfl⟩, ⟨placed_idle _ _ _ _ _, _, rfl⟩,
    placed_idle _ _ _ _ _, _, rfl⟩

/-- SdoChangesOnlyInTheLowPhase and OnlyOwnedOutputsChange, a step that changes `SDO`. -/
theorem witness_sdo :
    let s := placed (.sendBit 1 (.send .data)) 0x11 [] [] [] [.seq]
    s.Inv ∧ (drawTurn s).1 ≠ .rst ∧
      ∃ t, step s = .next t ∧ t.ports.sdo ≠ s.ports.sdo ∧
        portLevel t.ports .sdo ≠ portLevel s.ports .sdo :=
  ⟨placed_run (.sendBit 1) _ _ _ _ rfl rfl rfl, by decide, _, rfl, by decide, by decide⟩

/-- GrantedAcquireOwnsTheLine and FailedAcquireEndsWithLineAcq, the second acquisition of the DHT line and
the last one of each tracker. -/
theorem witness_acquire :
    ∀ g ∈ [Grant.ok, .fail],
      let s := placed (.dhtRead .acquireIn) 0x04 [] [g] [] []
      let s' := placed (.keypadRun (.acquireColumn 3)) 0x05 [] [g] [] []
      runningCommand s.seq = some .dhtRead ∧ acquiresAt s.seq = some (.dht, .input) ∧
        s.env.grants = g :: [] ∧ runningCommand s'.seq = some .keypadRun ∧
        acquiresAt s'.seq = some (.kcol 3, .input) ∧ s'.env.grants = g :: [] ∧
        ∀ c ∈ [(Instr.tiltRun, Seq.tiltRun .acquireInd1), (.slideRun 1 0, .slideRun 1 0 .acquireInd1)],
          let u := placed c.2 0 [] [g] [] []
          runningCommand u.seq = some c.1 ∧ acquiresAt u.seq = some (.ind1, .output) ∧
            u.env.grants = g :: [] := by decide

/-- CompletionIsOneStep: an end with NONE, one with CHECKSUM, and a micro-action that ends nothing. -/
theorem witness_completion :
    (let s := placed (.sendBit 0 .finish) 0x01 [] [] [] [];
      runningCommand s.seq = some (.sendBit 0) ∧ ∃ t, exec (.sendBit 0) s = .next t ∧ t.seq = .idle) ∧
      (let s :=
        { placed (.dhtRead (.wait (.rise 4 7) (.seen 0 1))) 0x04 [] [] [] [] with
          work := { State.reset.work with frame := ⟨1, 0, 0, 0, 0⟩ } };
      runningCommand s.seq = some .dhtRead ∧
        ∃ t, exec .dhtRead s = .next t ∧ t.seq = .idle ∧ t.regs.status.err ≠ .none) ∧
      let s := placed (.sendBit 0 (.send .data)) 0x01 [] [] [] []
      runningCommand s.seq = some (.sendBit 0) ∧ ∃ t, exec (.sendBit 0) s = .next t ∧ t.seq ≠ .idle :=
  ⟨⟨rfl, _, rfl, rfl⟩, ⟨rfl, _, rfl, rfl, by decide⟩, rfl, _, rfl, by decide⟩

/-- ResultDataChangesOnlyAtSuccess, the completion of RECV_BIT with a 1. -/
theorem witness_result :
    let s := placed (.recvBit (.finish 1)) 0x02 [] [] [] [.seq]
    (drawTurn s).1 ≠ .rst ∧ s.Inv ∧ ∃ t, step s = .next t ∧ t.regs.rxbit.bit ≠ s.regs.rxbit.bit :=
  ⟨by decide, placed_run .recvBit _ _ _ _ rfl rfl rfl, _, rfl, by decide⟩

/-- SendBitMicroActions, every position. -/
theorem witness_send :
    ∀ p ∈ [SendPos.clockLow, .holdLow, .data, .clockHigh, .holdHigh],
      (placed (.sendBit 1 (.send p)) 0x11 [] [] [] []).seq = .sendBit 1 (.send p) := by decide

/-- RecvBitMicroActions, every position. -/
theorem witness_recv :
    ∀ p ∈ [RecvPos.clockLow, .holdLow, .sample, .clockHigh 1, .holdHigh 1],
      let s := placed (.recvBit (.recv p)) 0x02 [1] [] [] []
      s.seq = .recvBit (.recv p) ∧ s.env.levels = 1 :: [] := by decide

/-- SendBitWholeRun and RecvBitWholeRun. -/
theorem witness_transport_run :
    let s := placed .idle 0 [1] [.ok, .ok] [] []
    s.seq = .idle ∧ s.own = Own.empty ∧ s.env.grants = .ok :: .ok :: [] ∧ s.env.levels = 1 :: [] := by
  decide

/-- TransportCommandsComplete, both commands. -/
theorem witness_transport_end :
    let s := placed (.sendBit 1 .finish) 0x11 [] [] [] []
    let s' := placed (.recvBit (.finish 0)) 0x02 [] [] [] []
    s.own.get .dht = none ∧ s.seq = .sendBit 1 .finish ∧ s'.own.get .dht = none ∧
      s'.seq = .recvBit (.finish 0) := by decide

/-- AdcReadUsesTheTransportPrimitives: the first and the last bit of header and paths, and the positions
between two primitives. -/
theorem witness_adc_primitives :
    ∀ p ∈ [AdcPos.header 0 .clockLow, .header 4 .holdHigh, .msbPath 0 .sample,
        .lsbPath 6 (.holdHigh 1), .startMsb, .msbGot 0 1, .msbGot 5 0, .msbGot 6 1, .sharedGot 1,
        .lsbGot 0 1, .lsbGot 5 0, .lsbGot 6 1],
      let s := placed (.adcRead 3 p) 0x33 [1] [] [] []
      s.seq = .adcRead 3 p ∧ s.env.levels = 1 :: [] := by decide

/-- AdcValidatorDecides, equal and unequal paths. -/
theorem witness_adc_validator :
    let s := placed (.adcRead 2 .finish) 0x23 [] [] [] []
    let s' := { s with work := { s.work with msb := 0xA5, lsb := 0xA7 } }
    s.seq = .adcRead 2 .finish ∧ s.own.get .dht = none ∧ s.work.msb = s.work.lsb ∧
      s'.seq = .adcRead 2 .finish ∧ s'.own.get .dht = none ∧ s'.work.msb ≠ s'.work.lsb := by decide

/-- AdcReadWholeRun, the readout of V-A4. -/
theorem witness_adc_run :
    let s := placed .idle 0 [1, 0, 1, 0, 0, 1, 0, 1, 0, 1, 0, 0, 1, 0, 1] [.ok, .ok, .ok, .ok] [] []
    s.seq = .idle ∧ s.own = Own.empty ∧ s.env.grants = .ok :: .ok :: .ok :: .ok :: [] ∧
      s.env.levels =
        1 :: 0 :: 1 :: 0 :: 0 :: 1 :: 0 :: 1 :: 0 :: 1 :: 0 :: 0 :: 1 :: 0 :: 1 :: [] := by decide

/-- CancelDoesNotReachProtocolCommands, each of the four commands. -/
theorem witness_cancel :
    (∃ t, exec .recvBit (placed (.recvBit (.finish 0)) 0x02 [] [] [] []) = .next t) ∧
      (∃ t, exec (.sendBit 1) (placed (.sendBit 1 .finish) 0x11 [] [] [] []) = .next t) ∧
      (∃ t, exec (.adcRead 1) (placed (.adcRead 1 (.msbGot 6 0)) 0x13 [1] [] [] []) = .next t) ∧
      ∃ t, exec .dhtRead (placed (.dhtRead .driveLow) 0x04 [] [] [] []) = .next t :=
  ⟨⟨_, rfl⟩, ⟨_, rfl⟩, ⟨_, rfl⟩, _, rfl⟩

/-- WaitLevelCountsOrTimesOut: no level missed, 254 missed (the largest count), and 255. -/
theorem witness_wait :
    (let s := placed (.dhtRead (.wait (.handshake 0) (.poll 0))) 0x04 (waitAnswers 1 0 ++ []) [] [] [];
      s.seq = .dhtRead (.wait (.handshake 0) (.poll 0)) ∧ 0 < s.params.nWait ∧
        s.env.levels = waitAnswers 1 0 ++ []) ∧
      (let s := placed (.dhtRead (.wait (.rise 4 7) (.poll 0))) 0x04 (waitAnswers 1 254 ++ []) [] [] [];
        s.seq = .dhtRead (.wait (.rise 4 7) (.poll 0)) ∧ 254 < s.params.nWait ∧
          s.env.levels = waitAnswers 1 254 ++ []) ∧
      let s :=
        placed (.dhtRead (.wait (.fall 0 0) (.poll 0))) 0x04 (List.replicate 255 (~~~(0 : Bit)) ++ []) []
          [] []
      s.seq = .dhtRead (.wait (.fall 0 0) (.poll 0)) ∧
        s.env.levels = List.replicate s.params.nWait (~~~(0 : Bit)) ++ [] :=
  ⟨⟨rfl, by decide, rfl⟩, ⟨rfl, by decide, rfl⟩, rfl, rfl⟩

/-- WaitLevelCountsOrTimesOut, the return of a count: from a wait that another follows, and from the last. -/
theorem witness_wait_return :
    let s := placed (.dhtRead (.wait (.handshake 2) (.seen 254 1))) 0x04 [0] [] [] []
    let s' := placed (.dhtRead (.wait (.rise 4 7) (.seen 0 1))) 0x04 [] [] [] []
    s.seq = .dhtRead (.wait (.handshake 2) (.seen 254 (WaitSite.handshake 2).level)) ∧
      (WaitSite.handshake 2).next = some (.fall 0 0) ∧
      s'.seq = .dhtRead (.wait (.rise 4 7) (.seen 0 (WaitSite.rise 4 7).level)) ∧
      (WaitSite.rise 4 7).next = none := by decide

/-- DhtBitIsOneAboveThreshold, at the threshold and one above, and at the largest count. -/
theorem witness_dht_bit :
    ∀ n ∈ [16, 17, 254],
      let s :=
        placed (.dhtRead (.wait (.fall 4 7) (.poll 0))) 0x04 (waitAnswers 0 0 ++ waitAnswers 1 n ++ []) []
          [] []
      s.seq = .dhtRead (.wait (.fall 4 7) (.poll 0)) ∧ 0 < s.params.nWait ∧ n < s.params.nWait ∧
        n < 256 ∧ s.env.levels = waitAnswers 0 0 ++ waitAnswers 1 n ++ [] := by
  intro n hn
  refine ⟨rfl, (by decide : 0 < Params.default.nWait), ?_, ?_, rfl⟩
  · exact (by decide : ∀ n ∈ [16, 17, 254], n < Params.default.nWait) n hn
  · exact (by decide : ∀ n ∈ [16, 17, 254], n < 256) n hn

/-- DhtRequestDrivesThenReleases, its three parts. -/
theorem witness_request :
    let s := placed (.dhtRead .acquireOut) 0x04 [] [.ok] [] []
    let s' := placed (.dhtRead .holdLow) 0x04 [] [] [] []
    let s'' := placed (.dhtRead .holdHigh) 0x04 [] [.ok] [] []
    (s.seq = .dhtRead .acquireOut ∧ s.env.grants = .ok :: []) ∧ s'.seq = .dhtRead .holdLow ∧
      s''.seq = .dhtRead .holdHigh ∧ s''.env.grants = .ok :: [] := by decide

/-- DhtChecksumDecides: the sum 0x200 of V-D2, whose last bit is a 0, and the mutation of V-D3, whose last
bit is a 1. -/
theorem witness_checksum :
    let good : State :=
      { placed (.dhtRead (.wait (.rise 4 7) (.seen 0 1))) 0x04 [] [] [] [] with
        work := { State.reset.work with frame := ⟨0xFF, 0x01, 0x80, 0x80, 0x00⟩, byte := 0x00 } }
    let bad : State :=
      { placed (.dhtRead (.wait (.rise 4 7) (.seen 17 1))) 0x04 [] [] [] [] with
        work := { State.reset.work with frame := ⟨0x23, 0x00, 0x18, 0x01, 0x00⟩, byte := 0x1D } }
    good.seq = .dhtRead (.wait (.rise 4 7) (.seen 0 1)) ∧ good.own.get .dht = some .input ∧
      (0x00 : Byte) =
        good.work.byte.extractLsb' 0 7 ++ (if 0 > good.params.dhtThresh then 1#1 else 0#1) ∧
      (good.work.frame.humInt.toNat + good.work.frame.humDec.toNat + good.work.frame.tempInt.toNat +
          good.work.frame.tempDec.toNat) % 256 = (0x00 : Byte).toNat ∧
      bad.seq = .dhtRead (.wait (.rise 4 7) (.seen 17 1)) ∧ bad.own.get .dht = some .input ∧
      (0x3B : Byte) =
        bad.work.byte.extractLsb' 0 7 ++ (if 17 > bad.params.dhtThresh then 1#1 else 0#1) ∧
      (bad.work.frame.humInt.toNat + bad.work.frame.humDec.toNat + bad.work.frame.tempInt.toNat +
          bad.work.frame.tempDec.toNat) % 256 ≠ (0x3B : Byte).toNat := by decide

/-- DhtReadWholeRun: the shortest answers with every pulse count at 17, so every bit a 1. -/
theorem witness_dht_run :
    let s :=
      placed .idle 0 (dhtAnswers (fun _ => 0) (fun _ _ => 0) (fun _ _ => 17) ++ []) [.ok, .ok] [] []
    s.seq = .idle ∧ s.own = Own.empty ∧ s.env.grants = .ok :: .ok :: [] ∧ s.params.nWait ≤ 256 ∧
      0 < s.params.nWait ∧ 17 < s.params.nWait ∧
      s.env.levels = dhtAnswers (fun _ => 0) (fun _ _ => 0) (fun _ _ => 17) ++ [] :=
  ⟨rfl, rfl, rfl, by decide, by decide, by decide, rfl⟩

/-- ScanPassReportsTheSampledKeys, the keys of V-K2. -/
theorem witness_scan :
    let keys : List Bit := [1, 0, 0, 0, 0, 1, 0, 0, 0, 0, 1, 0, 0, 0, 0, 1]
    let s := placed (.keypadRun .top) 0x05 (keys ++ []) [] [] []
    s.seq = .keypadRun .top ∧ s.regs.cancel = 0 ∧ s.ports.krow = 0 ∧ keys.length = 16 ∧
      s.env.levels = keys ++ [] := by decide

/-- EndOfPassLatchesNewKeys and KeyIsReportedOnFirstPassOnly: a new key and none, and the hold after a pass. -/
theorem witness_end_of_pass :
    let s := placed (.keypadRun .endOfPass) 0x05 [] [] [] []
    let s' := { s with work := { s.work with cur := 0x0008, prev := 0 } }
    s.seq = .keypadRun .endOfPass ∧ (∃ t, exec .keypadRun s = .next t) ∧
      s.work.cur &&& ~~~s.work.prev = 0 ∧ s'.seq = .keypadRun .endOfPass ∧
      (∃ t, exec .keypadRun s' = .next t) ∧ s'.work.cur &&& ~~~s'.work.prev ≠ 0 ∧
      (placed (.keypadRun .scanHold) 0x05 [] [] [] []).seq = .keypadRun .scanHold :=
  ⟨rfl, ⟨_, rfl⟩, by decide, rfl, ⟨_, rfl⟩, by decide, rfl⟩

/-- WaitEdgeIteration: each position, cancelled and not. -/
theorem witness_wait_edge :
    ∀ q ∈ [Seq.tiltRun .waitEdge, .tiltRun .top, .slideRun 1 0 .waitEdge, .slideRun 1 0 .top],
      let s := placed q 0x06 [1] [] [] []
      let s' := { s with regs := { s.regs with cancel := 1 } }
      s.seq = q ∧ s.regs.cancel = 0 ∧ s.env.levels = 1 :: [] ∧ s'.seq = q ∧ s'.regs.cancel = 1 := by
  decide

/-- CancelledTrackersCompleteWithNone: each position. -/
theorem witness_cancelled :
    ∀ q ∈ [Seq.keypadRun .top, .tiltRun .top, .tiltRun .cancelled, .slideRun 1 0 .top,
        .slideRun 1 0 .cancelled],
      let s := placed q 0x05 [] [] [] []
      let s' := { s with regs := { s.regs with cancel := 1 } }
      s'.own.get .dht = none ∧ s'.regs.cancel = 1 ∧ s'.seq = q := by decide

/-- TrackersRunUntilCancelled: one position of each tracker. -/
theorem witness_trackers_run :
    ∀ c ∈ [(Instr.keypadRun, Seq.keypadRun .scanHold), (.tiltRun, .tiltRun .waitEdge),
        (.slideRun 0 1, .slideRun 0 1 (.toggle 1))],
      let s := placed c.2 0x05 [] [] [] []
      (c.1 = .keypadRun ∨ c.1 = .tiltRun ∨ c.1 = .slideRun 0 1) ∧ runningCommand s.seq = some c.1 ∧
        acquiresAt s.seq = none ∧ s.regs.cancel = 0 ∧ s.seq ≠ .tiltRun .cancelled ∧
        ∀ i0 i1, s.seq ≠ .slideRun i0 i1 .cancelled := by decide

/-- TiltReportShowsTheSettledLevel, both levels. -/
theorem witness_report :
    ∀ v ∈ [(0 : Bit), 1],
      (placed (.tiltRun (.report v)) 0x06 [] [] [] []).seq = .tiltRun (.report v) := by decide

/-- TiltBounceGivesOneReport: a bounce that comes back (V-S2) and one that settles high (V-S3). -/
theorem witness_bounce :
    ∀ v ∈ [(0 : Bit), 1],
      let s := placed (.tiltRun .waitEdge) 0x06 (1 :: v :: v :: []) [] [] []
      s.seq = .tiltRun .waitEdge ∧ s.regs.cancel = 0 ∧ 1 ≠ s.work.swLast ∧
        s.env.levels = 1 :: v :: v :: [] := by decide

/-- SlideToggleInvertsBothIndicators. -/
theorem witness_toggle :
    (placed (.slideRun 1 0 (.toggle 1)) 0x17 [] [] [] []).seq = .slideRun 1 0 (.toggle 1) := rfl

/-- SlideTogglesOncePerEdge: no edge, and the three edges of V-S6. -/
theorem witness_edges :
    ∀ m ∈ [0, 3],
      let s :=
        { placed (.slideRun 1 1 .top) 0x37 (edges 0 m ++ []) [] [] [] with
          ports := { State.reset.ports with ind0 := 1, ind1 := 1 } }
      s.seq = .slideRun 1 1 .top ∧ s.regs.cancel = 0 ∧ s.ports.ind0 = 1 ∧ s.ports.ind1 = 1 ∧
        s.env.levels = edges s.work.swLast m ++ [] := by decide

/-- SwitchTrackersStart, its three positions. -/
theorem witness_switch_start :
    ∀ q ∈ [Seq.slideRun 1 0 .driveStart, .slideRun 1 0 .firstSample, .tiltRun .firstSample],
      let s := placed q 0x06 [1] [] [] []
      s.seq = q ∧ s.env.levels = 1 :: [] := by decide

/-- SerialCommandsFrame: each command, and the premise on the running command. -/
theorem witness_serial_frame :
    (∃ t, exec .recvBit (placed (.recvBit (.recv .clockLow)) 0x02 [] [] [] []) = .next t) ∧
      (∃ t, exec (.sendBit 0) (placed (.sendBit 0 (.send .data)) 0x01 [] [] [] []) = .next t) ∧
      (∃ t, exec (.adcRead 0) (placed (.adcRead 0 .selectLow) 0x03 [] [] [] []) = .next t) ∧
      runningCommand (placed (.adcRead 0 .selectLow) 0x03 [] [] [] []).seq = some (.adcRead 0) ∧
      (placed (.adcRead 0 .selectLow) 0x03 [] [] [] []).own.get .dht = none :=
  ⟨⟨_, rfl⟩, ⟨_, rfl⟩, ⟨_, rfl⟩, rfl, rfl⟩

/-- DhtReadFrame, a completion that changes `DHT_DATA` (V-D1). -/
theorem witness_dht_frame :
    let s :=
      { placed (.dhtRead (.wait (.rise 4 7) (.seen 17 1))) 0x04 [] [] [] [] with
        work := { State.reset.work with frame := ⟨0x23, 0x00, 0x18, 0x00, 0x00⟩, byte := 0x1D } }
    runningCommand s.seq = some .dhtRead ∧
      ∃ t, exec .dhtRead s = .next t ∧ t.regs.dhtData ≠ s.regs.dhtData :=
  ⟨rfl, _, rfl, by decide⟩

/-- KeypadRunFrame and SwitchTrackersFrame. -/
theorem witness_tracker_frames :
    (let s := placed (.keypadRun (.rowHigh 1)) 0x05 [] [] [] [];
      (∃ t, exec .keypadRun s = .next t) ∧ runningCommand s.seq = some .keypadRun ∧
        s.own.get .dht = none) ∧
      (let s := placed (.tiltRun (.report 1)) 0x06 [] [] [] [];
        (∃ t, exec .tiltRun s = .next t) ∧ runningCommand s.seq = some .tiltRun ∧
          s.own.get .dht = none) ∧
      let s := placed (.slideRun 0 1 (.toggle 1)) 0x27 [] [] [] []
      (∃ t, exec (.slideRun 0 1) s = .next t) ∧ runningCommand s.seq = some (.slideRun 0 1) ∧
        s.own.get .dht = none :=
  ⟨⟨⟨_, rfl⟩, rfl, rfl⟩, ⟨⟨_, rfl⟩, rfl, rfl⟩, ⟨_, rfl⟩, rfl, rfl⟩

end Sys2Proof.Tests
end

/-! SUPPORT. One micro-action of the running command as a function of the sequencer position. -/

namespace Sys2Proof.Machine

/-- The micro-action at a sequencer position (R34); an idle block has none. -/
def micro (q : Seq) (s : State) : State :=
  match q with
  | .idle => s
  | .sendBit v p => sendBitMicro v p s
  | .recvBit p => recvBitMicro p s
  | .adcRead ch p => adcMicro ch p s
  | .dhtRead p => dhtMicro p s
  | .keypadRun p => keypadMicro p s
  | .tiltRun p => tiltMicro p s
  | .slideRun i0 i1 p => slideMicro i0 i1 p s

/-- The block that runs a command performs the micro-action of its position. -/
theorem exec_eq_micro {i : Instr} {s : State} (h : runningCommand s.seq = some i) :
    exec i s = .next (micro s.seq s) := by
  rw [exec_running h]
  cases s.seq <;> rfl

/-- `exec_eq_micro` with the position written out. -/
theorem exec_at {i : Instr} {s : State} {q : Seq} (hq : s.seq = q)
    (h : runningCommand q = some i) : exec i s = .next (micro q s) := by
  subst hq
  exact exec_eq_micro h

/-! ### Acquisitions -/

/-- A position that acquires performs the `Acquire` of its table entry, and goes on where the table of
successors says. -/
theorem micro_acquire {q : Seq} {l : Line} {d : Dir} (s : State)
    (h : acquiresAt q = some (l, d)) : micro q s = acquire l d (onceGranted q) s := by
  rcases q with _ | ⟨v, p⟩ | p | ⟨ch, p⟩ | p | p | p | ⟨i0, i1, p⟩
  case idle => cases h
  case keypadRun =>
    rcases p with r | c | _ | _ | _ | _ | _ | _ | _ <;> cases h
    · match r with
      | 0 | 1 | 2 | 3 => rfl
    · match c with
      | 0 | 1 | 2 | 3 => rfl
  all_goals cases p <;> cases h <;> rfl

/-- A granted `Acquire` leaves the command running. -/
@[simp] theorem runningCommand_onceGranted (q : Seq) :
    runningCommand (onceGranted q) = runningCommand q := by
  unfold onceGranted
  split <;> rfl

/-- `DHT_OE` follows the direction of the DHT line, and no other acquisition touches a port. -/
theorem take_ports (l : Line) (d : Dir) (s : State) :
    (take l d s).ports =
      { s.ports with
        dhtOe := if l = .dht then (if d = .output then 1 else 0) else s.ports.dhtOe } := by
  by_cases hl : l = .dht
  · subst hl
    cases d <;> rfl
  · rw [take_ports_of_ne d s hl, if_neg hl]

/-- The whole state after an error: the outcome is recorded and every line is released. -/
theorem raiseErr_eq (c : ErrCode) (s : State) :
    raiseErr c s =
      { s with
        regs := { s.regs with status := { s.regs.status with err := c, busy := 0, done := 1 } }
        ports := { s.ports with dhtOe := if s.own.dht = none then s.ports.dhtOe else 0 }
        seq := .idle
        own := Own.empty } := by
  rw [← raiseErr_regs, ← raiseErr_ports]
  rfl

/-- Settles O27: the micro-action is the `Acquire` of the table, and a granted one takes the line. -/
theorem grantedAcquireOwnsTheLine : Obligations.GrantedAcquireOwnsTheLine := by
  unfold Obligations.GrantedAcquireOwnsTheLine
  intro s i l d gs hrun hacq hgrant
  have hstep : micro s.seq s = _ := (micro_acquire s hacq).trans (acquire_ok hgrant)
  refine ⟨_, exec_eq_micro hrun, ?_⟩
  rw [hstep]
  exact ⟨rfl, rfl, (runningCommand_onceGranted _).trans hrun, take_ports l d _, rfl, rfl, rfl, rfl⟩

/-- Settles O28: the micro-action is the `Acquire` of the table, and a failed one raises LINE_ACQ. -/
theorem failedAcquireEndsWithLineAcq : Obligations.FailedAcquireEndsWithLineAcq := by
  unfold Obligations.FailedAcquireEndsWithLineAcq
  intro s i l d gs hrun hacq hgrant
  rw [exec_eq_micro hrun, micro_acquire s hacq, acquire_fail hgrant, raiseErr_eq]
  rfl

end Sys2Proof.Machine

/-! SUPPORT. ADC_READ and the transport's primitives. -/

namespace Sys2Proof.Machine

/-! ### Shifting bits in, as concatenation -/

/-- The bit shifted in is the least significant one. -/
theorem shiftIn_getLsbD_zero (v : Byte) (b : Bit) : (shiftIn v b).getLsbD 0 = b.getLsbD 0 := by
  simp [shiftIn]

/-- Every other bit moves up by one place. -/
theorem shiftIn_getLsbD_succ (v : Byte) (b : Bit) {i : Nat} (hi : i < 7) :
    (shiftIn v b).getLsbD (i + 1) = v.getLsbD i := by
  have h8 : i + 1 < 8 := by omega
  simp [shiftIn, BitVec.getLsbD_of_ge, h8, BitVec.getLsbD_eq_getElem (show i < 8 by omega)]

theorem shiftIn_eq_append (v : Byte) (b : Bit) : shiftIn v b = v.extractLsb' 0 7 ++ b := by
  refine BitVec.eq_of_getLsbD_eq fun i hi => .trans ?_ BitVec.getLsbD_append.symm
  cases i with
  | zero => exact shiftIn_getLsbD_zero v b
  | succ i =>
    have hi' : i < 7 := by omega
    simp [shiftIn_getLsbD_succ v b hi', hi']

/-- A bit widened to a byte. -/
theorem setWidth_eq_append (b : Bit) : b.setWidth 8 = 0#7 ++ b := by
  revert b; decide

theorem placeBit_eq_or_append (v : Byte) (b : Bit) (i : Nat) :
    placeBit v b i = v ||| (0#7 ++ b) <<< i := by
  rw [placeBit, setWidth_eq_append]

/-! ### Loop indices -/

theorem nextIndex_of_lt {n : Nat} {k : Fin n} (h : k.val + 1 < n) :
    nextIndex k = some ⟨k.val + 1, h⟩ := dif_pos h

theorem nextIndex_of_not_lt {n : Nat} {k : Fin n} (h : ¬k.val + 1 < n) : nextIndex k = none :=
  dif_neg h

/-! ### A primitive does not read the position or the working registers -/

theorem sample_congr (l : Line) (q : Seq) (w : Work) (s : State) :
    sample l { s with seq := q, work := w } =
      ((sample l s).1, { (sample l s).2 with seq := q, work := w }) := by
  unfold sample drawLevel
  cases s.env.levels <;> rfl

theorem sendMicro_congr (v : Bit) (p : SendPos) (q : Seq) (s : State) :
    sendMicro v p { s with seq := q } = { sendMicro v p s with seq := q } := by
  cases p <;> rfl

theorem recvMicro_congr (p : RecvPos) (q : Seq) (w : Work) (s : State) :
    recvMicro p { s with seq := q, work := w } =
      ((recvMicro p s).1, { (recvMicro p s).2 with seq := q, work := w }) := by
  cases p with
  | sample => simp only [recvMicro, sample_congr]
  | clockLow | holdLow | clockHigh | holdHigh => rfl

/-! ### A command's micro-action within a primitive -/

theorem sendBitMicro_send (v : Bit) (p : SendPos) (s : State) :
    ∃ q, sendBitMicro v (.send p) s = goto q (sendMicro v p s) := by
  cases p <;> exact ⟨_, rfl⟩

theorem adcMicro_header (ch : BitVec 2) (k : Fin 5) (p : SendPos) (s : State) :
    ∃ q, adcMicro ch (.header k p) s =
      goto q (sendMicro (headerBit ch s.params.adcDcBit k) p s) := by
  cases p <;> exact ⟨_, rfl⟩

theorem recvBitMicro_recv (p : RecvPos) (s : State) :
    ∃ q, recvBitMicro (.recv p) s = goto q (recvMicro p s).2 := by
  cases p <;> exact ⟨_, rfl⟩

theorem pathMicro_eq_goto (ch : BitVec 2) (path : RecvPos → AdcPos) (got : Bit → AdcPos)
    (p : RecvPos) (s : State) : ∃ q, pathMicro ch path got p s = goto q (recvMicro p s).2 := by
  cases p <;> exact ⟨_, rfl⟩

/-- A header position of ADC_READ does what SEND_BIT does. -/
theorem header_as_sendBit {s : State} {ch : BitVec 2} {k : Fin 5} {p : SendPos} {v : Bit}
    (hv : v = headerBit ch s.params.adcDcBit k) (hs : s.seq = .adcRead ch (.header k p)) :
    ∃ t u, exec (.adcRead ch) s = .next t ∧
      exec (.sendBit v) { s with seq := .sendBit v (.send p) } = .next u ∧
      t = { u with seq := t.seq } := by
  refine ⟨_, _, exec_at hs rfl, exec_at rfl rfl, ?_⟩
  obtain ⟨q, hq⟩ := adcMicro_header ch k p s
  obtain ⟨q', hq'⟩ := sendBitMicro_send v p { s with seq := .sendBit v (.send p) }
  simp only [micro, hq, hq', sendMicro_congr, ← hv]
  rfl

/-- A RecvBit of ADC_READ, entered with the working registers `w`, does what RECV_BIT does, which
changes none of them. -/
theorem path_as_recvBit {s : State} {ch : BitVec 2} {path : RecvPos → AdcPos} {got : Bit → AdcPos}
    {p : RecvPos} {w : Work}
    (h : exec (.adcRead ch) s = .next (pathMicro ch path got p { s with work := w })) :
    ∃ t u, exec (.adcRead ch) s = .next t ∧
      exec .recvBit { s with seq := .recvBit (.recv p) } = .next u ∧
      t = { u with seq := t.seq, work := w } ∧ u.work = s.work := by
  refine ⟨_, _, h, exec_at rfl rfl, ?_⟩
  obtain ⟨q, hq⟩ := pathMicro_eq_goto ch path got p { s with work := w }
  obtain ⟨q', hq'⟩ := recvBitMicro_recv p { s with seq := .recvBit (.recv p) }
  have hw := recvMicro_congr p s.seq w s
  have hr := recvMicro_congr p (.recvBit (.recv p)) s.work s
  simp only [micro, hq, hq', hw, hr]
  exact ⟨rfl, rfl⟩

/-- What ADC_READ makes of its accumulators before it starts the RecvBit that follows a position
between two primitives (R89, R92, R94). -/
def StartsRecvBit (ch : BitVec 2) (q : Seq) (v w : Work) : Prop :=
  (q = .adcRead ch .startMsb ∧ w = { v with msb := 0 }) ∨
    (∃ (k : Fin 7) (b : Bit), k.val < 6 ∧ q = .adcRead ch (.msbGot k b) ∧
      w = { v with msb := v.msb.extractLsb' 0 7 ++ b }) ∨
    (∃ b : Bit, q = .adcRead ch (.sharedGot b) ∧
      w = { v with msb := v.msb.extractLsb' 0 7 ++ b, lsb := 0#7 ++ b }) ∨
    ∃ (k : Fin 7) (b : Bit), k.val < 6 ∧ q = .adcRead ch (.lsbGot k b) ∧
      w = { v with lsb := v.lsb ||| (0#7 ++ b) <<< (k.val + 1) }

theorem exec_adcRead_startsRecvBit {s : State} {ch : BitVec 2} {w : Work}
    (h : StartsRecvBit ch s.seq s.work w) :
    ∃ path got, exec (.adcRead ch) s =
      .next (pathMicro ch path got .clockLow { s with work := w }) := by
  rcases h with ⟨hs, rfl⟩ | ⟨k, b, hk, hs, rfl⟩ | ⟨b, hs, rfl⟩ | ⟨k, b, hk, hs, rfl⟩
  · exact ⟨.msbPath 0, .msbGot 0, exec_at hs rfl⟩
  · have hk' : k.val + 1 < 7 := by omega
    refine ⟨.msbPath ⟨k.val + 1, hk'⟩, .msbGot ⟨k.val + 1, hk'⟩, (exec_at hs rfl).trans ?_⟩
    simp only [micro, adcMicro, nextIndex_of_lt hk', msbMicro, foldMsb, shiftIn_eq_append]
  · refine ⟨.lsbPath 0, .lsbGot 0, (exec_at hs rfl).trans ?_⟩
    simp only [micro, adcMicro, lsbMicro, shiftIn_eq_append, setWidth_eq_append]
  · have hk' : k.val + 1 < 7 := by omega
    refine ⟨.lsbPath ⟨k.val + 1, hk'⟩, .lsbGot ⟨k.val + 1, hk'⟩, (exec_at hs rfl).trans ?_⟩
    simp only [micro, adcMicro, nextIndex_of_lt hk', lsbMicro, foldLsb, placeBit_eq_or_append]

/-- The bare sample of p8 folds in the last bit of the MSB-first path (R92, R93). -/
theorem exec_adcRead_sharedSample {s : State} {ch : BitVec 2} {b p8 : Bit} {ls : List Bit}
    (hs : s.seq = .adcRead ch (.msbGot 6 b)) (hls : s.env.levels = p8 :: ls) :
    exec (.adcRead ch) s = .next
      { s with
        work := { s.work with msb := s.work.msb.extractLsb' 0 7 ++ b }
        env := { s.env with levels := ls }
        seq := .adcRead ch (.sharedGot p8) } := by
  have hsample := sample_cons (l := .sdi) (s := foldMsb b s) hls
  have hn : nextIndex (6 : Fin 7) = none := nextIndex_of_not_lt (by decide)
  rw [exec_at hs rfl, ← shiftIn_eq_append]
  simp only [micro, adcMicro, hn, sharedMicro, hsample]
  rfl

/-- The drive that ends the conversion folds in the last bit of the LSB-first path (R94, R97). -/
theorem exec_adcRead_endOfConversion {s : State} {ch : BitVec 2} {b : Bit}
    (hs : s.seq = .adcRead ch (.lsbGot 6 b)) :
    exec (.adcRead ch) s = .next
      { s with
        work := { s.work with lsb := s.work.lsb ||| (0#7 ++ b) <<< 7 }
        ports := { s.ports with csN := 1 }
        seq := .adcRead ch .holdReleased } := by
  have hn : nextIndex (6 : Fin 7) = none := nextIndex_of_not_lt (by decide)
  rw [exec_at hs rfl]
  simp only [micro, adcMicro, hn, foldLsb, placeBit_eq_or_append]
  rfl

/-- Settles O36: header and path positions run the primitives themselves, whose micro-actions read
neither the position nor the accumulators. -/
theorem adcReadUsesTheTransportPrimitives : Obligations.AdcReadUsesTheTransportPrimitives := by
  unfold Obligations.AdcReadUsesTheTransportPrimitives
  intro s ch
  refine ⟨fun k p hs => header_as_sendBit rfl hs, fun k p hs => ?_, fun w h => ?_,
    fun b p8 ls => ⟨exec_adcRead_sharedSample, exec_adcRead_endOfConversion⟩⟩
  · have hpath : ∃ path got, exec (.adcRead ch) s = .next (pathMicro ch path got p s) :=
      hs.elim (fun h => ⟨_, _, exec_at h rfl⟩) fun h => ⟨_, _, exec_at h rfl⟩
    obtain ⟨path, got, h⟩ := hpath
    obtain ⟨t, u, ht, hu, htu, hw⟩ := path_as_recvBit (w := s.work) h
    exact ⟨t, u, ht, hu, by rw [hw]; exact htu⟩
  · obtain ⟨path, got, hstart⟩ := exec_adcRead_startsRecvBit h
    obtain ⟨t, u, ht, hu, htu, -⟩ := path_as_recvBit hstart
    exact ⟨t, u, ht, hu, htu⟩

end Sys2Proof.Machine

/-! SUPPORT. Which port levels a step can change. -/

namespace Sys2Proof.Machine

/-! ### The levels a change of the ports touches -/

/-- Between the ports `p` and `p'` no level changes but those of the lines that `o` owns as outputs. -/
def DrivesOnlyOwned (o : Own) (p p' : Ports) : Prop :=
  ∀ l, portLevel p' l ≠ portLevel p l → o.get l = some .output

theorem DrivesOnlyOwned.refl (o : Own) (p : Ports) : DrivesOnlyOwned o p p :=
  fun _ h => absurd rfl h

theorem DrivesOnlyOwned.trans {o : Own} {p p' p'' : Ports} (h : DrivesOnlyOwned o p p')
    (h' : DrivesOnlyOwned o p' p'') : DrivesOnlyOwned o p p'' := by
  intro l hl
  by_cases he : portLevel p' l = portLevel p l
  · exact h' l (he ▸ hl)
  · exact h l he

/-- `DHT_OE` is no level of its own. -/
@[simp] theorem portLevel_dhtOe (p : Ports) (b : Bit) (l : Line) :
    portLevel { p with dhtOe := b } l = portLevel p l := by
  cases l <;> rfl

/-- Driving one row leaves the level of every other row. -/
theorem setRow_extract_other (v : BitVec 4) {r r' : Fin 4} (b : Bit) (h : r' ≠ r) :
    (setRow v r b).extractLsb' r'.val 1 = v.extractLsb' r'.val 1 := by
  revert v r r' b
  decide

/-- A drive changes the level of its own line only. -/
theorem portLevel_drivePorts_other {l l' : Line} (b : Bit) (p : Ports) (h : l' ≠ l) :
    portLevel (drivePorts l b p) l' = portLevel p l' := by
  cases l
  case krow r =>
    cases l' with
    | krow r' => exact congrArg some (setRow_extract_other _ b fun e => h (congrArg _ e))
    | sclk | sdo | sdi | csN | dht | kcol | swIn | ind0 | ind1 => rfl
  all_goals cases l' <;> simp_all [portLevel, drivePorts]

theorem drive_drivesOnlyOwned {o : Own} {l : Line} (b : Bit) (s : State)
    (h : o.get l = some .output) : DrivesOnlyOwned o s.ports (drive l b s).ports := by
  intro l' hl'
  by_cases he : l' = l
  · exact he ▸ h
  · exact absurd (portLevel_drivePorts_other b s.ports he) hl'

theorem dhtOe_drivesOnlyOwned (o : Own) (p : Ports) (b : Bit) :
    DrivesOnlyOwned o p { p with dhtOe := b } :=
  fun l h => absurd (portLevel_dhtOe p b l) h

theorem complete_drivesOnlyOwned (o : Own) (c : ErrCode) (f : Regs → Regs) (s : State) :
    DrivesOnlyOwned o s.ports (complete c f s).ports := by
  rw [complete_ports]
  exact dhtOe_drivesOnlyOwned o _ _

theorem raiseErr_drivesOnlyOwned (o : Own) (c : ErrCode) (s : State) :
    DrivesOnlyOwned o s.ports (raiseErr c s).ports :=
  complete_drivesOnlyOwned o c id s

theorem acquire_drivesOnlyOwned (o : Own) (l : Line) (d : Dir) (next : Seq) (s : State) :
    DrivesOnlyOwned o s.ports (acquire l d next s).ports := by
  rw [← drawGrant_ports s]
  rcases acquire_cases l d next s with h | h <;> rw [h]
  · rw [goto_ports, take_ports]
    exact dhtOe_drivesOnlyOwned o _ _
  · exact raiseErr_drivesOnlyOwned o _ _

/-! ### One micro-action of each command -/

theorem sendMicro_drivesOnlyOwned {o : Own} (v : Bit) (p : SendPos) (s : State)
    (hclock : o.get .sclk = some .output) (hdata : o.get .sdo = some .output) :
    DrivesOnlyOwned o s.ports (sendMicro v p s).ports := by
  cases p with
  | clockLow | clockHigh => exact drive_drivesOnlyOwned _ s hclock
  | data => exact drive_drivesOnlyOwned _ s hdata
  | holdLow | holdHigh => exact .refl o _

theorem recvMicro_drivesOnlyOwned {o : Own} (p : RecvPos) (s : State)
    (hclock : o.get .sclk = some .output) :
    DrivesOnlyOwned o s.ports (recvMicro p s).2.ports := by
  cases p with
  | clockLow | clockHigh => exact drive_drivesOnlyOwned _ s hclock
  | sample =>
    have h : (recvMicro .sample s).2.ports = s.ports := sample_ports .sdi s
    exact h ▸ .refl o _
  | holdLow | holdHigh => exact .refl o _

theorem sendBitMicro_drivesOnlyOwned (v : Bit) (p : SendBitPos) (s : State) :
    DrivesOnlyOwned (sendBitOwn p) s.ports (sendBitMicro v p s).ports := by
  cases p with
  | acquireClock | acquireData => exact acquire_drivesOnlyOwned _ _ _ _ s
  | send p =>
    obtain ⟨q, hq⟩ := sendBitMicro_send v p s
    exact hq ▸ sendMicro_drivesOnlyOwned v p s rfl rfl
  | finish => exact complete_drivesOnlyOwned _ _ _ s

theorem recvBitMicro_drivesOnlyOwned (p : RecvBitPos) (s : State) :
    DrivesOnlyOwned (recvBitOwn p) s.ports (recvBitMicro p s).ports := by
  cases p with
  | acquireClock | acquireData => exact acquire_drivesOnlyOwned _ _ _ _ s
  | recv p =>
    obtain ⟨q, hq⟩ := recvBitMicro_recv p s
    exact hq ▸ recvMicro_drivesOnlyOwned p s rfl
  | finish b => exact complete_drivesOnlyOwned _ _ _ s

theorem pathMicro_drivesOnlyOwned {o : Own} (ch : BitVec 2) (path : RecvPos → AdcPos)
    (got : Bit → AdcPos) (p : RecvPos) (s : State) (hclock : o.get .sclk = some .output) :
    DrivesOnlyOwned o s.ports (pathMicro ch path got p s).ports := by
  obtain ⟨q, hq⟩ := pathMicro_eq_goto ch path got p s
  exact hq ▸ recvMicro_drivesOnlyOwned p s hclock

@[simp] theorem sharedMicro_ports (ch : BitVec 2) (s : State) :
    (sharedMicro ch s).ports = s.ports :=
  sample_ports .sdi s

theorem adcMicro_drivesOnlyOwned (ch : BitVec 2) (p : AdcPos) (s : State) :
    DrivesOnlyOwned (adcOwn p) s.ports (adcMicro ch p s).ports := by
  cases p with
  | acquireSelect | acquireClock | acquireOut | acquireIn => exact acquire_drivesOnlyOwned _ _ _ _ s
  | selectLow => exact drive_drivesOnlyOwned _ s rfl
  | holdSelected | holdReleased => exact .refl _ _
  | header k p =>
    obtain ⟨q, hq⟩ := adcMicro_header ch k p s
    exact hq ▸ sendMicro_drivesOnlyOwned _ p s rfl rfl
  | startMsb => exact pathMicro_drivesOnlyOwned ch _ _ _ { s with work := _ } rfl
  | msbPath k p | lsbPath k p => exact pathMicro_drivesOnlyOwned ch _ _ p s rfl
  | msbGot k b =>
    simp only [adcMicro]
    split
    · exact pathMicro_drivesOnlyOwned ch _ _ _ (foldMsb b s) rfl
    · rw [sharedMicro_ports]
      exact .refl _ _
  | sharedGot b => exact pathMicro_drivesOnlyOwned ch _ _ _ { s with work := _ } rfl
  | lsbGot k b =>
    simp only [adcMicro]
    split
    · exact pathMicro_drivesOnlyOwned ch _ _ _ (foldLsb b _ s) rfl
    · exact drive_drivesOnlyOwned _ (foldLsb b _ s) rfl
  | finish =>
    simp only [adcMicro]
    split
    · exact complete_drivesOnlyOwned _ _ _ s
    · exact raiseErr_drivesOnlyOwned _ _ s

theorem pollMicro_drivesOnlyOwned (o : Own) (site : WaitSite) (i : Nat) (s : State) :
    DrivesOnlyOwned o s.ports (pollMicro site i s).ports := by
  rcases pollMicro_cases site i s with ⟨h, -⟩ | ⟨h, -⟩ <;> rw [h]
  · rw [goto_ports, sample_ports]
    exact .refl o _
  · exact raiseErr_drivesOnlyOwned o _ s

theorem dhtFinish_drivesOnlyOwned (o : Own) (s : State) :
    DrivesOnlyOwned o s.ports (dhtFinish s).ports := by
  rcases dhtFinish_cases s with ⟨h, -⟩ | ⟨h, -⟩ <;> rw [h]
  · exact complete_drivesOnlyOwned o _ _ s
  · exact raiseErr_drivesOnlyOwned o _ s

theorem waitMicro_drivesOnlyOwned (o : Own) (site : WaitSite) (p : WaitPos) (s : State) :
    DrivesOnlyOwned o s.ports (waitMicro site p s).ports := by
  rcases waitMicro_cases site p s with ⟨site', i, f, y, n, h⟩ | ⟨i, b, -, h⟩ | ⟨f, y, n, h⟩ <;> rw [h]
  · exact pollMicro_drivesOnlyOwned o site' i { s with work := _ }
  · exact .refl o _
  · exact dhtFinish_drivesOnlyOwned o { s with work := _ }

theorem dhtMicro_drivesOnlyOwned (p : DhtPos) (s : State) :
    DrivesOnlyOwned (dhtOwn p) s.ports (dhtMicro p s).ports := by
  cases p with
  | acquireOut | acquireIn => exact acquire_drivesOnlyOwned _ _ _ _ s
  | driveLow | driveHigh => exact drive_drivesOnlyOwned _ s rfl
  | holdLow | holdHigh => exact .refl _ _
  | wait site p => exact waitMicro_drivesOnlyOwned _ site p s

@[simp] theorem columnMicro_ports (r c : Fin 4) (s : State) :
    (columnMicro r c s).ports = s.ports :=
  sample_ports (.kcol c) s

/-- With every keypad line acquired, each row is owned as an output. -/
theorem keypadOwn_get_krow (r : Fin 4) : (keypadOwn 4 4).get (.krow r) = some .output := by
  match r with
  | 0 | 1 | 2 | 3 => rfl

theorem keypadMicro_drivesOnlyOwned (p : KeypadPos) (s : State) :
    DrivesOnlyOwned (keypadPosOwn p) s.ports (keypadMicro p s).ports := by
  cases p with
  | acquireRow | acquireColumn => exact acquire_drivesOnlyOwned _ _ _ _ s
  | top =>
    simp only [keypadMicro]
    split
    · exact complete_drivesOnlyOwned _ _ _ s
    · exact drive_drivesOnlyOwned _ { s with work := _ } (keypadOwn_get_krow 0)
  | rowHigh r => exact drive_drivesOnlyOwned _ s (keypadOwn_get_krow r)
  | rowHold | scanHold | endOfPass => exact .refl _ _
  | firstColumn r => exact (columnMicro_ports r 0 s).symm ▸ .refl _ _
  | seen r c b =>
    rw [← markKey_ports r c b s]
    simp only [keypadMicro]
    split
    · rw [columnMicro_ports]
      exact .refl _ _
    · exact drive_drivesOnlyOwned _ _ (keypadOwn_get_krow r)

/-- Both indicators driven one after the other, as TiltReport and SlideToggle do (R118, R121). -/
theorem driveBoth_drivesOnlyOwned {o : Own} (b0 b1 : Bit) (s : State)
    (h0 : o.get .ind0 = some .output) (h1 : o.get .ind1 = some .output) :
    DrivesOnlyOwned o s.ports (drive .ind1 b1 (drive .ind0 b0 s)).ports :=
  (drive_drivesOnlyOwned b0 s h0).trans (drive_drivesOnlyOwned b1 _ h1)

@[simp] theorem waitEdgeMicro_ports (s : State) : (waitEdgeMicro s).2.ports = s.ports := by
  rcases waitEdgeMicro_cases s with ⟨h, -⟩ | ⟨h, -⟩ | ⟨e, h, -⟩ <;> simp [h]

theorem tiltMicro_drivesOnlyOwned (p : TiltPos) (s : State) :
    DrivesOnlyOwned (tiltOwn p) s.ports (tiltMicro p s).ports := by
  cases p with
  | acquireSwitch | acquireInd0 | acquireInd1 => exact acquire_drivesOnlyOwned _ _ _ _ s
  | firstSample | settledSample =>
    have h : (sample .swIn s).2.ports = s.ports := sample_ports .swIn s
    exact h ▸ .refl _ _
  | top =>
    rw [← waitEdgeMicro_ports s]
    simp only [tiltMicro]
    split <;> rename_i h <;> rw [h]
    · exact complete_drivesOnlyOwned _ _ _ _
    · exact .refl _ _
    · exact .refl _ _
  | waitEdge =>
    rw [← waitEdgeMicro_ports s]
    simp only [tiltMicro]
    split <;> rename_i h <;> rw [h] <;> exact .refl _ _
  | cancelled => exact complete_drivesOnlyOwned _ _ _ s
  | settleHold | reportHold => exact .refl _ _
  | report v => exact driveBoth_drivesOnlyOwned _ _ (setSwLast v s) rfl rfl

theorem slideMicro_drivesOnlyOwned (i0 i1 : Bit) (p : SlidePos) (s : State) :
    DrivesOnlyOwned (slideOwn p) s.ports (slideMicro i0 i1 p s).ports := by
  cases p with
  | acquireSwitch | acquireInd0 | acquireInd1 => exact acquire_drivesOnlyOwned _ _ _ _ s
  | driveStart => exact driveBoth_drivesOnlyOwned i0 i1 s rfl rfl
  | firstSample =>
    have h : (sample .swIn s).2.ports = s.ports := sample_ports .swIn s
    exact h ▸ .refl _ _
  | top =>
    rw [← waitEdgeMicro_ports s]
    simp only [slideMicro]
    split <;> rename_i h <;> rw [h]
    · exact complete_drivesOnlyOwned _ _ _ _
    · exact .refl _ _
    · exact .refl _ _
  | waitEdge =>
    rw [← waitEdgeMicro_ports s]
    simp only [slideMicro]
    split <;> rename_i h <;> rw [h] <;> exact .refl _ _
  | cancelled => exact complete_drivesOnlyOwned _ _ _ s
  | toggle e => exact driveBoth_drivesOnlyOwned _ _ (setSwLast e s) rfl rfl

/-- A micro-action changes only levels of lines that its position owns as outputs. -/
theorem micro_drivesOnlyOwned (q : Seq) (s : State) :
    DrivesOnlyOwned (ownAt q) s.ports (micro q s).ports := by
  cases q with
  | idle => exact .refl _ _
  | sendBit v p => exact sendBitMicro_drivesOnlyOwned v p s
  | recvBit p => exact recvBitMicro_drivesOnlyOwned p s
  | adcRead ch p => exact adcMicro_drivesOnlyOwned ch p s
  | dhtRead p => exact dhtMicro_drivesOnlyOwned p s
  | keypadRun p => exact keypadMicro_drivesOnlyOwned p s
  | tiltRun p => exact tiltMicro_drivesOnlyOwned p s
  | slideRun i0 i1 p => exact slideMicro_drivesOnlyOwned i0 i1 p s

/-! ### A step -/

/-- The sequencer's turn is the micro-action of the position, which is none for an idle block. -/
theorem sequencerTurn_eq_micro (s : State) : sequencerTurn exec s = .next (micro s.seq s) := by
  unfold sequencerTurn
  split
  · rename_i i h
    exact exec_eq_micro h
  · rename_i h
    have hidle : s.seq = .idle := by
      cases hq : s.seq <;> simp [hq, runningCommand] at h ⊢
    rw [hidle]
    rfl

/-- A step is a micro-action, a turn of the host, or reset. -/
theorem step_cases {s t : State} (h : step s = .next t) :
    (drawTurn s).1 = .seq ∧ t = micro s.seq (drawTurn s).2 ∨
      (drawTurn s).1 = .host ∧ hostTurn exec (drawTurn s).2 = .next t ∨
      (drawTurn s).1 = .rst ∧ t = assertReset (drawTurn s).2 := by
  unfold step at h
  split at h <;> rename_i s' hd
  · rw [sequencerTurn_eq_micro] at h
    cases h
    refine .inl ⟨by rw [hd], ?_⟩
    rw [← drawTurn_seq s, hd]
  · exact .inr (.inl ⟨by rw [hd], by rw [hd]; exact h⟩)
  · cases h
    exact .inr (.inr ⟨by rw [hd], by rw [hd]⟩)

/-- A write to `CMD` is turned away while busy, is an illegal word, or has its command executed. -/
theorem issue_cases {run : Instr → State → Result} {w : Word} {s t : State}
    (h : issue run w s = .next t) :
    s.regs.status.busy = 1 ∧ t = rejectBusy s ∨
      s.regs.status.busy ≠ 1 ∧ (∃ r, decode w = .error r) ∧
        t = illegalCommand { s with regs := { s.regs with cmd := w } } ∨
      s.regs.status.busy ≠ 1 ∧ ∃ i, decode w = .ok i ∧
        run i { s with regs := { s.regs with cmd := w } } = .next t := by
  unfold issue at h
  split at h <;> rename_i hb
  · cases h
    exact .inl ⟨hb, rfl⟩
  · split at h <;> rename_i x hd
    · exact .inr (.inr ⟨hb, x, hd, h⟩)
    · cases h
      exact .inr (.inl ⟨hb, ⟨x, hd⟩, rfl⟩)

/-- A write in the window issues a command, writes `STATUS` or `CTRL`, or does nothing. -/
theorem writeOffset_cases {run : Instr → State → Result} {offset : Nat} {w : Word} {s t : State}
    (h : writeOffset run offset w s = .next t) :
    t = s ∨ issue run w s = .next t ∨ t = { s with regs := writeStatus w s.regs } ∨
      t = { s with regs := { s.regs with cancel := wordBit w 0 } } := by
  unfold writeOffset at h
  split at h
  · exact .inr (.inl h)
  · cases h
    exact .inr (.inr (.inl rfl))
  · cases h
    exact .inr (.inr (.inr rfl))
  all_goals
    cases h
    exact .inl rfl

/-- An access the block admits is a read, which returns a word, or a write in the window. -/
theorem performAccess_cases {run : Instr → State → Result} {a : Access} {s t : State}
    (h : performAccess run a s = .next t) :
    (∃ v, t = returnRead v s) ∨ ∃ offset w, writeOffset run offset w s = .next t := by
  cases a with
  | read addr width =>
    simp only [performAccess] at h
    split at h <;> cases h
    exact .inl ⟨_, rfl⟩
  | write addr width w =>
    simp only [performAccess] at h
    split at h
    · exact .inr ⟨_, w, h⟩
    · cases h

/-- A `POLL` read returns a word, whether or not the host goes on. -/
theorem performPoll_cases {addr : Nat} {mask val : Word} {s t : State}
    (h : performPoll addr mask val s = .next t) :
    ∃ v, t = returnRead v (takeStatement s) ∨ t = returnRead v s := by
  unfold performPoll at h
  split at h
  · dsimp only at h
    split at h <;> cases h
    · exact ⟨_, .inl rfl⟩
    · exact ⟨_, .inr rfl⟩
  · cases h

/-- What a turn of the host can do: `e` is the host's side after it, and the block is as it was, or has
taken a write to `CMD`, `STATUS` or `CTRL`. -/
theorem hostTurn_cases {run : Instr → State → Result} {s t : State}
    (h : hostTurn run s = .next t) :
    ∃ e : Env, e.levels = s.env.levels ∧ e.grants = s.env.grants ∧ e.turns = s.env.turns ∧
      (t = { s with env := e } ∨ ∃ w, issue run w { s with env := e } = .next t ∨
        t = { s with env := e, regs := writeStatus w s.regs } ∨
        t = { s with env := e, regs := { s.regs with cancel := wordBit w 0 } }) := by
  obtain ⟨e, he, hl, hg, ht⟩ : ∃ e : Env, takeStatement s = { s with env := e } ∧
      e.levels = s.env.levels ∧ e.grants = s.env.grants ∧ e.turns = s.env.turns :=
    ⟨_, takeStatement_eq s, by rw [takeStatement_env], by rw [takeStatement_env],
      by rw [takeStatement_env]⟩
  unfold hostTurn at h
  rw [he] at h
  split at h
  · rcases performAccess_cases h with ⟨v, rfl⟩ | ⟨offset, w, hw⟩
    · exact ⟨{ e with rdata := v }, hl, hg, ht, .inl rfl⟩
    · exact ⟨e, hl, hg, ht, (writeOffset_cases hw).imp id fun h => ⟨w, h⟩⟩
  · rcases performPoll_cases h with ⟨v, rfl | rfl⟩
    · exact ⟨{ e with rdata := v }, hl, hg, ht, .inl (by rw [he]; rfl)⟩
    · exact ⟨{ s.env with rdata := v }, rfl, rfl, rfl, .inl rfl⟩
  · cases h
    exact ⟨{ e with x := 0 }, hl, hg, ht, .inl rfl⟩
  · cases h
    exact ⟨{ e with x := shiftInStep s.env.x s.env.rdata }, hl, hg, ht, .inl rfl⟩
  · cases h
    exact ⟨e, hl, hg, ht, .inl rfl⟩

/-- A write to `CMD` moves no port of a block whose `BUSY` agrees with `SEQ`. -/
theorem issue_ports {w : Word} {s t : State} (hbusy : s.regs.status.busy = 1 ↔ s.seq ≠ .idle)
    (h : issue exec w s = .next t) : t.ports = s.ports := by
  rcases issue_cases h with ⟨-, rfl⟩ | ⟨-, -, rfl⟩ | ⟨hb, i, -, hi⟩
  · rfl
  · rfl
  · have hidle : s.seq = .idle := by
      by_contra hne
      exact hb (hbusy.mpr hne)
    have haccept := exec_accept (i := i) (s := { s with regs := { s.regs with cmd := w } }) hidle
    cases haccept.symm.trans hi
    rfl

/-- No turn of the host moves a port. -/
theorem hostTurn_ports {s t : State} (hbusy : s.regs.status.busy = 1 ↔ s.seq ≠ .idle)
    (h : hostTurn exec s = .next t) : t.ports = s.ports := by
  obtain ⟨e, -, -, -, rfl | ⟨w, hi | rfl | rfl⟩⟩ := hostTurn_cases h
  · rfl
  · exact issue_ports (s := { s with env := e }) hbusy hi
  · rfl
  · rfl

/-- Settles O26: only a micro-action moves ports, and it drives only lines its position owns. -/
theorem onlyOwnedOutputsChange : Obligations.OnlyOwnedOutputsChange := by
  unfold Obligations.OnlyOwnedOutputsChange
  intro s t l hinv hrst hstep hlevel
  rcases step_cases hstep with ⟨-, rfl⟩ | ⟨-, hhost⟩ | ⟨hreset, -⟩
  · rw [hinv.owned]
    refine micro_drivesOnlyOwned s.seq (drawTurn s).2 l ?_
    rwa [drawTurn_ports]
  · have hports := hostTurn_ports (by rw [drawTurn_regs, drawTurn_seq]; exact hinv.busy) hhost
    rw [hports, drawTurn_ports] at hlevel
    exact absurd rfl hlevel
  · exact absurd hreset hrst

end Sys2Proof.Machine

/-! SUPPORT. WaitLevel in DHT_READ: runs of polls, the return of a count, and the bit it decodes to. -/

namespace Sys2Proof.Machine

/-! ### Polls (R98) -/

/-- A poll below `N_WAIT` samples the line. -/
theorem exec_poll {site : WaitSite} {i : Nat} {b : Bit} {ls : List Bit} {s : State}
    (hs : s.seq = .dhtRead (.wait site (.poll i))) (hi : i < s.params.nWait)
    (hls : s.env.levels = b :: ls) :
    exec .dhtRead s = .next
      { s with
        env := { s.env with levels := ls }
        seq := .dhtRead (.wait site (.seen i b)) } := by
  rw [exec_at hs rfl]
  simp only [micro, dhtMicro, waitMicro, pollMicro, if_pos hi, sample_cons hls]
  rfl

/-- A level that is not the awaited one leads to the next poll, after the hold. -/
theorem exec_missed {site : WaitSite} {i : Nat} {b : Bit} {s : State}
    (hs : s.seq = .dhtRead (.wait site (.seen i b))) (hb : b ≠ site.level) :
    exec .dhtRead s = .next
      { s with
        held := s.held + s.params.tPoll
        seq := .dhtRead (.wait site (.poll (i + 1))) } := by
  rw [exec_at hs rfl]
  simp only [micro, dhtMicro, waitMicro, if_neg hb]
  rfl

theorem not_bit_ne (b : Bit) : ~~~b ≠ b := by
  revert b; decide

/-- `n` polls from the first that all miss: `n` samples and `n` holds. -/
theorem execN_missedPolls {site : WaitSite} {s : State} (hs : s.seq = .dhtRead (.wait site (.poll 0)))
    {n : Nat} (hn : n ≤ s.params.nWait) {ls : List Bit}
    (hls : s.env.levels = List.replicate n (~~~site.level) ++ ls) :
    execN (2 * n) .dhtRead s = .next
      { s with
        held := s.held + n * s.params.tPoll
        env := { s.env with levels := ls }
        seq := .dhtRead (.wait site (.poll n)) } := by
  induction n generalizing ls with
  | zero =>
    obtain rfl : s.env.levels = ls := by simpa using hls
    rw [Nat.zero_mul, ← hs]
    rfl
  | succ n ih =>
    have hls' : s.env.levels = List.replicate n (~~~site.level) ++ ~~~site.level :: ls := by
      rw [hls, List.replicate_succ', List.append_assoc, List.singleton_append]
    rw [Nat.mul_succ, execN_add (ih (by omega) hls'), Nat.succ_mul, ← Nat.add_assoc]
    refine Eq.trans (execN_succ (exec_poll rfl hn rfl)) ?_
    exact execN_succ (exec_missed rfl (not_bit_ne _))

/-- A WaitLevel that misses `n` times and then sees its level: `n` + 1 samples and `n` holds. -/
theorem execN_waitLevel {site : WaitSite} {s : State} (hs : s.seq = .dhtRead (.wait site (.poll 0)))
    {n : Nat} (hn : n < s.params.nWait) {ls : List Bit}
    (hls : s.env.levels = waitAnswers site.level n ++ ls) :
    execN (2 * n + 1) .dhtRead s = .next
      { s with
        held := s.held + n * s.params.tPoll
        env := { s.env with levels := ls }
        seq := .dhtRead (.wait site (.seen n site.level)) } := by
  rw [waitAnswers, List.append_assoc, List.singleton_append] at hls
  rw [execN_add (execN_missedPolls hs hn.le hls)]
  exact execN_succ (exec_poll rfl hn rfl)

/-! ### The return of a count -/

/-- A poll does not read the position. -/
theorem pollMicro_seq (site : WaitSite) (i : Nat) (q : Seq) (s : State) :
    pollMicro site i { s with seq := q } = pollMicro site i s := by
  unfold pollMicro sample drawLevel
  split
  · cases s.env.levels <;> rfl
  · rfl

/-- The micro-action after the awaited level takes the count and goes on. -/
theorem exec_seen {site : WaitSite} {n : Nat} {s : State}
    (hs : s.seq = .dhtRead (.wait site (.seen n site.level))) :
    exec .dhtRead s = .next (afterWait site n s) := by
  rw [exec_at hs rfl]
  simp only [micro, dhtMicro, waitMicro, if_true]

/-- The micro-action that sees the awaited level is the first poll of the next wait, made after the
count is taken into the working registers (R11). -/
theorem exec_waitReturn {site site' : WaitSite} {n : Nat} {s : State}
    (hs : s.seq = .dhtRead (.wait site (.seen n site.level))) (hnext : site.next = some site') :
    exec .dhtRead s = exec .dhtRead
      { s with
        seq := .dhtRead (.wait site' (.poll 0))
        work := enterWait site' (waitReturns site n s.params.dhtThresh s.work) } := by
  rw [exec_seen hs, exec_at (q := .dhtRead (.wait site' (.poll 0))) rfl rfl]
  simp only [micro, dhtMicro, waitMicro, afterWait, hnext]
  exact congrArg _ (pollMicro_seq site' 0 _ _).symm

/-- Runs agree when their first micro-actions do. -/
theorem execN_succ_congr {i : Instr} {s s' : State} (h : exec i s = exec i s') (k : Nat) :
    execN (k + 1) i s = execN (k + 1) i s' := by
  simp only [execN, h]

@[simp] theorem pollMicro_work (site : WaitSite) (i : Nat) (s : State) :
    (pollMicro site i s).work = s.work := by
  rcases pollMicro_cases site i s with ⟨h, -⟩ | ⟨h, -⟩ <;> simp [h]

@[simp] theorem dhtFinish_work (s : State) : (dhtFinish s).work = s.work := by
  rcases dhtFinish_cases s with ⟨h, -⟩ | ⟨h, -⟩ <;> simp [h]

theorem afterWait_work_next {site site' : WaitSite} (n : Nat) (s : State)
    (h : site.next = some site') :
    (afterWait site n s).work = enterWait site' (waitReturns site n s.params.dhtThresh s.work) := by
  simp only [afterWait, h, pollMicro_work]

theorem afterWait_work_last {site : WaitSite} (n : Nat) (s : State) (h : site.next = none) :
    (afterWait site n s).work = waitReturns site n s.params.dhtThresh s.work := by
  simp only [afterWait, h, dhtFinish_work]

/-! ### A bit of the frame (R101, R102) -/

/-- A count that fits its 8 bits decodes to 1 exactly above the threshold. -/
theorem dhtBit_ofNat {n : Nat} (hn : n < 256) (threshold : Nat) :
    (dhtBit (BitVec.ofNat 8 n) threshold).getLsbD 0 = decide (n > threshold) := by
  have hmod : n % 2 ^ 8 = n := Nat.mod_eq_of_lt hn
  rw [dhtBit, BitVec.toNat_ofNat, hmod]
  by_cases h : n > threshold <;> simp [h]

/-- The two waits of a bit, one after the other: only `n` of the working registers changes. -/
theorem execN_bitWaits {s : State} {k : Fin 5} {j : Fin 8} {m n : Nat} {ls : List Bit}
    (hs : s.seq = .dhtRead (.wait (.fall k j) (.poll 0))) (hm : m < s.params.nWait)
    (hn : n < s.params.nWait) (hls : s.env.levels = waitAnswers 0 m ++ waitAnswers 1 n ++ ls) :
    execN ((2 * m + 1) + (2 * n + 1)) .dhtRead s = .next
      { s with
        held := s.held + (m + n) * s.params.tPoll
        env := { s.env with levels := ls }
        work := { s.work with n := BitVec.ofNat 8 m }
        seq := .dhtRead (.wait (.rise k j) (.seen n 1)) } := by
  rw [List.append_assoc] at hls
  rw [execN_add (execN_waitLevel (site := .fall k j) hs hm hls), Nat.add_mul, ← Nat.add_assoc]
  refine Eq.trans (execN_succ_congr (exec_waitReturn rfl rfl) _) ?_
  exact execN_waitLevel (site := .rise k j) rfl (by exact hn) rfl

/-- A bit that is not the last of its byte goes into `byte`. -/
theorem afterWait_rise_work {k : Fin 5} {j : Fin 8} (hj : j.val ≠ 7) (n : Nat) (s : State) :
    (afterWait (.rise k j) n s).work =
      { s.work with
        n := BitVec.ofNat 8 n
        byte := shiftIn s.work.byte (dhtBit (BitVec.ofNat 8 n) s.params.dhtThresh) } := by
  have hindex := nextIndex_of_lt (show j.val + 1 < 8 by omega)
  have hnext : (WaitSite.rise k j).next = some (.fall k ⟨j.val + 1, by omega⟩) := by
    simp only [WaitSite.next, hindex]
  rw [afterWait_work_next n s hnext]
  simp only [waitReturns, takeDhtBit, hindex, enterWait, Nat.succ_ne_zero, if_false]

/-- The last bit of a byte completes it: the byte goes into the frame, and `byte` is cleared for the
next one, if there is one. -/
theorem afterWait_rise_work_last {k : Fin 5} {j : Fin 8} (hj : j.val = 7) (n : Nat) (s : State) :
    (afterWait (.rise k j) n s).work.frame =
        setFrameByte s.work.frame k
          (shiftIn s.work.byte (dhtBit (BitVec.ofNat 8 n) s.params.dhtThresh)) ∧
      (k.val ≠ 4 → (afterWait (.rise k j) n s).work.byte = 0) := by
  have hindex := nextIndex_of_not_lt (show ¬j.val + 1 < 8 by omega)
  by_cases hk : k.val = 4
  · have hnext : (WaitSite.rise k j).next = none := by
      simp only [WaitSite.next, hindex, nextIndex_of_not_lt (show ¬k.val + 1 < 5 by omega)]
    rw [afterWait_work_last n s hnext]
    exact ⟨by simp only [waitReturns, takeDhtBit, hindex], fun h => absurd hk h⟩
  · have hnext : (WaitSite.rise k j).next = some (.fall ⟨k.val + 1, by omega⟩ 0) := by
      simp only [WaitSite.next, hindex, nextIndex_of_lt (show k.val + 1 < 5 by omega)]
    rw [afterWait_work_next n s hnext]
    simp [waitReturns, takeDhtBit, hindex, enterWait]

/-- Settles O42: the two waits run as `execN_bitWaits` says, and the micro-action that follows shifts
the decoded bit into `byte`. -/
theorem dhtBitIsOneAboveThreshold : Obligations.DhtBitIsOneAboveThreshold := by
  unfold Obligations.DhtBitIsOneAboveThreshold
  intro s k j m n ls hs hm hn hn8 hls
  refine ⟨_, _, shiftIn s.work.byte (dhtBit (BitVec.ofNat 8 n) s.params.dhtThresh),
    execN_bitWaits hs hm hn hls, rfl, rfl, rfl, rfl, rfl, exec_seen (site := .rise k j) rfl,
    ?_, ?_, ?_, ?_⟩
  · rw [shiftIn_getLsbD_zero, dhtBit_ofNat hn8]
  · exact fun b hb => shiftIn_getLsbD_succ _ _ hb
  · intro hj
    rw [afterWait_rise_work hj]
    exact ⟨rfl, rfl⟩
  · intro hj
    refine ⟨(afterWait_rise_work_last hj n _).1.trans ?_, (afterWait_rise_work_last hj n _).2⟩
    match k with
    | 0 | 1 | 2 | 3 | 4 => rfl

end Sys2Proof.Machine

/-! SUPPORT. The invariant in two halves: the wires, which the sequencer position determines, and the
registers, which depend only on the command that runs. -/

namespace Sys2Proof.Machine

/-! ### The wires of a position (R35, R87, R97, R109) -/

/-- What the sequencer position determines of the block's lines: ownership, the direction of the DHT
line, and the levels of the clock, the chip select and the keypad rows. -/
@[ext] structure Wires where
  own : Own
  dhtOe : Bit
  sclk : Bit
  csN : Bit
  krow : BitVec 4

def State.wires (s : State) : Wires where
  own := s.own
  dhtOe := s.ports.dhtOe
  sclk := s.ports.sclk
  csN := s.ports.csN
  krow := s.ports.krow

/-- The wires as the invariant wants them at a position. -/
def wiresAt (q : Seq) : Wires where
  own := ownAt q
  dhtOe := if (ownAt q).dht = some .output then 1 else 0
  sclk := if clockLowAt q then 0 else 1
  csN := if selectedAt q then 0 else 1
  krow := rowsAt q

/-- `drive`, seen from the wires. -/
def Wires.drive (l : Line) (b : Bit) (w : Wires) : Wires :=
  match l with
  | .sclk => { w with sclk := b }
  | .csN => { w with csN := b }
  | .krow r => { w with krow := setRow w.krow r b }
  | .sdo | .sdi | .dht | .kcol _ | .swIn | .ind0 | .ind1 => w

/-- `take`, seen from the wires. -/
def Wires.take (l : Line) (d : Dir) (w : Wires) : Wires :=
  { w with
    own := w.own.set l (some d)
    dhtOe := if l = .dht then (if d = .output then 1 else 0) else w.dhtOe }

/-- `releaseAll`, seen from the wires. -/
def Wires.release (w : Wires) : Wires :=
  { w with own := Own.empty, dhtOe := if w.own.dht = none then w.dhtOe else 0 }

/-- A granted `Acquire` takes the wires to those of the next position, where no wait has run yet, and a
failed one takes them to those of an idle block. -/
theorem wiresAt_of_acquiresAt {q : Seq} {l : Line} {d : Dir} (h : acquiresAt q = some (l, d)) :
    (wiresAt q).take l d = wiresAt (onceGranted q) ∧ (wiresAt q).release = wiresAt .idle ∧
      ∀ n, waitAt n (onceGranted q) = true := by
  rcases q with _ | ⟨v, p⟩ | p | ⟨ch, p⟩ | p | p | p | ⟨i0, i1, p⟩
  case idle => cases h
  case keypadRun =>
    rcases p with r | c | _ | _ | _ | _ | _ | _ | _ <;> cases h
    · match r with
      | 0 | 1 | 2 | 3 => exact ⟨rfl, rfl, fun _ => rfl⟩
    · match c with
      | 0 | 1 | 2 | 3 => exact ⟨rfl, rfl, fun _ => rfl⟩
  all_goals cases p <;> cases h <;> exact ⟨rfl, rfl, fun _ => rfl⟩

@[simp] theorem wiresAt_startOf (i : Instr) : wiresAt (startOf i) = wiresAt .idle := by
  cases i <;> rfl

@[simp] theorem waitAt_startOf (n : Nat) (i : Instr) : waitAt n (startOf i) = true := by
  cases i <;> rfl

/-- Driving a row high when all are low leaves that row high, and no other. -/
theorem setRow_high (r : Fin 4) : setRow 0 r 1 = 1#4 <<< r.val := by
  revert r; decide

theorem setRow_low (r : Fin 4) : setRow (1#4 <<< r.val) r 0 = 0 := by
  revert r; decide

/-! ### The registers under a command (R25, R30, R31, R58, R103, R148) -/

/-- The register half of the invariant, with `c` for the running command and `prev` for the keys of the
previous pass. -/
structure RegsAgree (r : Regs) (prev : KeySet) (c : Option Instr) : Prop where
  busy : r.status.busy = 1 ↔ c ≠ none
  pending : r.status.busy = 1 → r.status.done = 0 ∧ r.status.err = .none
  coherent : ∀ i, c = some i → decode r.cmd = .ok i
  keyEvent : r.status.keyEvt = 1 ↔ r.keyNew ≠ 0
  keyCur : c = some .keypadRun → r.keyCur = prev
  invalid : ∀ i, c = some i → resultInvalid r (startOf i)
  checked : r.dhtCsum.valid = 1 →
    (r.dhtData.humInt.toNat + r.dhtData.humDec.toNat + r.dhtData.tempInt.toNat +
        r.dhtData.tempDec.toNat) % 256 = r.dhtCsum.csum.toNat

theorem runningCommand_eq_none {q : Seq} : runningCommand q = none ↔ q = .idle := by
  cases q <;> simp [runningCommand]

/-- Only the running command matters to the `VALID` of its result. -/
theorem resultInvalid_iff {r : Regs} {q : Seq} :
    resultInvalid r q ↔ ∀ i, runningCommand q = some i → resultInvalid r (startOf i) := by
  cases q <;> simp [runningCommand, resultInvalid, startOf]

theorem keyCurIsPrev_iff {r : Regs} {w : Work} {q : Seq} :
    keyCurIsPrev r w q ↔ (runningCommand q = some .keypadRun → r.keyCur = w.prev) := by
  cases q <;> simp [runningCommand, keyCurIsPrev]

/-- A bit that is 1 exactly where `P` holds. -/
theorem bit_eq_ite {b : Bit} {P : Prop} [Decidable P] : b = (if P then 1 else 0) ↔ (b = 1 ↔ P) := by
  have hb : b = 0 ↔ b ≠ 1 := by revert b; decide
  by_cases h : P
  · simp [h]
  · rw [if_neg h, hb, iff_false_right h]

theorem wires_eq_wiresAt {s : State} {q : Seq} :
    s.wires = wiresAt q ↔
      s.own = ownAt q ∧ (s.ports.dhtOe = 1 ↔ (ownAt q).dht = some .output) ∧
        s.ports.sclk = (if clockLowAt q then 0 else 1) ∧
        s.ports.csN = (if selectedAt q then 0 else 1) ∧ s.ports.krow = rowsAt q := by
  rw [← bit_eq_ite]
  exact Wires.ext_iff

/-- The invariant, half by half. -/
theorem State.inv_iff {s : State} :
    s.Inv ↔ RegsAgree s.regs s.work.prev (runningCommand s.seq) ∧ s.wires = wiresAt s.seq ∧
      waitAt s.params.nWait s.seq = true := by
  rw [wires_eq_wiresAt]
  constructor
  · intro h
    exact ⟨{ busy := h.busy.trans runningCommand_eq_none.symm.not
             pending := h.pending
             coherent := h.coherent
             keyEvent := h.keyEvent
             keyCur := keyCurIsPrev_iff.mp h.keyCur
             invalid := resultInvalid_iff.mp h.invalid
             checked := h.checked },
      ⟨h.owned, h.owned ▸ h.driven, h.clock, h.select, h.rows⟩, h.waits⟩
  · rintro ⟨h, ⟨howned, hdriven, hclock, hselect, hrows⟩, hwaits⟩
    exact { busy := h.busy.trans runningCommand_eq_none.not
            pending := h.pending
            coherent := h.coherent
            owned := howned
            driven := howned ▸ hdriven
            clock := hclock
            select := hselect
            rows := hrows
            keyEvent := h.keyEvent
            keyCur := keyCurIsPrev_iff.mpr h.keyCur
            invalid := resultInvalid_iff.mpr h.invalid
            waits := hwaits
            checked := h.checked }

/-- Settles O23: at reset every register field is 0 and the wires are those of an idle block. -/
theorem resetMeetsInvariant : Obligations.ResetMeetsInvariant := by
  unfold Obligations.ResetMeetsInvariant
  rw [State.inv_iff]
  refine ⟨?_, rfl, rfl⟩
  constructor <;> simp [State.reset, runningCommand]

/-! ### What the operations do to the registers -/

section
variable {r : Regs} {prev : KeySet} {c : Option Instr}

/-- The registers after a completion with outcome `c` (R130). -/
def endRegs (c : ErrCode) (r : Regs) : Regs :=
  { r with status := { r.status with err := c, busy := 0, done := 1 } }

/-- The result writes a completion can make: with NONE those of R86, R89 and R104, the last only of a
frame with the right checksum; with any outcome none. -/
inductive ResultWrite : ErrCode → (Regs → Regs) → Prop where
  | nothing (c : ErrCode) : ResultWrite c id
  | rxbit (b : Bit) : ResultWrite .none (recvBitResult b)
  | adcData (ch : BitVec 2) (v : Byte) : ResultWrite .none (adcResult ch v)
  | dhtData (f : Frame) (hf : frameValid f = true) : ResultWrite .none (dhtResult f)

theorem frameValid_iff {f : Frame} :
    frameValid f = true ↔
      (f.humInt.toNat + f.humDec.toNat + f.tempInt.toNat + f.tempDec.toNat) % 256 =
        f.checksum.toNat := by
  simp [frameValid, frameSum, ← BitVec.toNat_inj]

/-- A completion agrees with an idle block; a frame it delivers has the right checksum. -/
theorem RegsAgree.ended {e : ErrCode} {f : Regs → Regs} (h : RegsAgree r prev c)
    (hf : ResultWrite e f) : RegsAgree (endRegs e (f r)) prev none where
  busy := by simp [endRegs]
  pending := by simp [endRegs]
  coherent := by simp
  keyEvent := by cases hf <;> exact h.keyEvent
  keyCur := by simp
  invalid := by simp
  checked := by
    cases hf with
    | dhtData f hf => exact fun _ => frameValid_iff.mp hf
    | nothing | rxbit | adcData => exact h.checked

/-- The acceptance clears of R67 and the fresh `prev` of R39 agree with the command accepted. -/
theorem RegsAgree.accepted {w : Work} (h : RegsAgree r w.prev c) {i : Instr}
    (hi : decode r.cmd = .ok i) :
    RegsAgree
      { acceptanceClears i r with
        status := { (acceptanceClears i r).status with busy := 1, done := 0, err := .none } }
      (freshWork i w).prev (some i) where
  busy := by simp
  pending := by simp
  coherent := by simpa using hi
  keyEvent := by
    cases i with
    | keypadRun => simp [acceptanceClears]
    | sendBit | recvBit | adcRead | dhtRead | tiltRun | slideRun => exact h.keyEvent
  keyCur := by
    rintro ⟨⟩
    rfl
  invalid := by
    rintro i' ⟨⟩
    cases i <;> simp [startOf, resultInvalid, acceptanceClears]
  checked := by
    cases i with
    | dhtRead => simp [acceptanceClears]
    | sendBit | recvBit | adcRead | keypadRun | tiltRun | slideRun => exact h.checked

theorem RegsAgree.countSwitchEvent (h : RegsAgree r prev c) :
    RegsAgree (countSwitchEvent r) prev c :=
  { h with }

theorem RegsAgree.cmdRej (h : RegsAgree r prev c) (b : Bit) :
    RegsAgree { r with status := { r.status with cmdRej := b } } prev c :=
  { h with }

theorem RegsAgree.cancel (h : RegsAgree r prev c) (b : Bit) :
    RegsAgree { r with cancel := b } prev c :=
  { h with }

/-- With no command running, any word may be stored in `CMD` (R66). -/
theorem RegsAgree.storeCmd (h : RegsAgree r prev none) (w : Word) :
    RegsAgree { r with cmd := w } prev none :=
  { h with coherent := nofun }

/-- With no command running, the outcome of an illegal word may be recorded (R66). -/
theorem RegsAgree.illegal (h : RegsAgree r prev none) :
    RegsAgree { r with status := { r.status with err := .illegalCmd, done := 1 } } prev none :=
  { h with pending := fun hb => absurd rfl (h.busy.mp hb) }

theorem RegsAgree.writeStatus (h : RegsAgree r prev c) (w : Word) :
    RegsAgree (writeStatus w r) prev c :=
  { h with
    pending := fun hb => by
      obtain ⟨hdone, herr⟩ := h.pending hb
      exact ⟨by simp [Machine.writeStatus, writeStatusFlags, clearedBy, hdone], herr⟩
    keyEvent := by
      simp only [Machine.writeStatus, writeStatusFlags, clearedBy]
      split
      · simp
      · exact h.keyEvent }

/-- The registers after the end of a pass with keys `cur`, of which `new` are new (R111, R112). -/
def passRegs (new cur : KeySet) (r : Regs) : Regs :=
  { (if new ≠ 0 then keyEmit new r else r) with keyCur := cur }

theorem or_ne_zero {a b : KeySet} (h : b ≠ 0) : a ||| b ≠ 0 :=
  fun h0 => h (BitVec.or_eq_zero_iff.mp h0).2

/-- The keys reported are in `KEY_NEW`, and `KEY_CUR` is the `prev` of the next pass. -/
theorem RegsAgree.passEnded (h : RegsAgree r prev c) (new cur : KeySet) :
    RegsAgree (passRegs new cur r) cur c := by
  by_cases hnew : new = 0
  · simp only [passRegs, hnew]
    exact { h with keyCur := fun _ => rfl }
  · simp only [passRegs, if_pos hnew]
    exact { h with
      keyCur := fun _ => rfl
      keyEvent := ⟨fun _ => or_ne_zero hnew, fun _ => rfl⟩ }

end

end Sys2Proof.Machine

/-! SUPPORT. What one micro-action can come to, said once for the invariant: a move to the next position
with its wires, or a completion. -/

namespace Sys2Proof.Machine

/-! ### What the invariant reads of a state, and what the operations leave of it -/

/-- What the invariant reads of a state besides the position. -/
structure View where
  regs : Regs
  prev : KeySet
  wires : Wires
  nWait : Nat

def State.view (s : State) : View where
  regs := s.regs
  prev := s.work.prev
  wires := s.wires
  nWait := s.params.nWait

@[simp] theorem sample_view (l : Line) (s : State) : (sample l s).2.view = s.view := by
  simp [State.view, State.wires]

@[simp] theorem drawGrant_view (s : State) : (drawGrant s).2.view = s.view := by
  simp [State.view, State.wires]

@[simp] theorem drawTurn_view (s : State) : (drawTurn s).2.view = s.view := by
  simp [State.view, State.wires]

@[simp] theorem markKey_view (r c : Fin 4) (b : Bit) (s : State) : (markKey r c b s).view = s.view := by
  simp [State.view, State.wires, markKey_work]

@[simp] theorem waitEdgeMicro_view (s : State) : (waitEdgeMicro s).2.view = s.view := by
  rcases waitEdgeMicro_cases s with ⟨h, -⟩ | ⟨h, -⟩ | ⟨e, h, -⟩ <;> simp [h]

theorem drive_view (l : Line) (b : Bit) (s : State) :
    (drive l b s).view = { s.view with wires := s.wires.drive l b } := by
  cases l <;> rfl

theorem take_view (l : Line) (d : Dir) (s : State) :
    (take l d s).view = { s.view with wires := s.wires.take l d } := by
  simp only [State.view, State.wires, take_ports]
  rfl

theorem complete_view {e : ErrCode} {f : Regs → Regs} (hf : ResultWrite e f) (s : State) :
    (complete e f s).view =
      { s.view with regs := endRegs e (f s.regs), wires := s.wires.release } := by
  have hregs : (complete e f s).regs = endRegs e (f s.regs) := by
    cases hf with
    | nothing => exact raiseErr_regs e s
    | rxbit | adcData | dhtData => rfl
  simp only [State.view, State.wires, hregs, complete_ports]
  rfl

theorem endOfPass_view (s : State) :
    (endOfPass s).view =
      { s.view with
        regs := passRegs (newKeys s.work.cur s.work.prev) s.work.cur s.regs
        prev := s.work.cur } := rfl

/-! ### What one micro-action can come to -/

/-- The micro-action of position `q` has taken a state with view `v` to `t`, whose wires are those of its
position, and whose wait, if any, is within `N_WAIT`. -/
inductive Moves (q : Seq) (v : View) (t : State) : Prop where
  /-- The command goes on, and no register has changed. -/
  | goesOn (hrun : runningCommand t.seq = runningCommand q)
      (hview : t.view = { v with wires := wiresAt t.seq }) (hwait : waitAt v.nWait t.seq = true)
  /-- A switch event is counted (R118, R121). -/
  | event (hrun : runningCommand t.seq = runningCommand q)
      (hview : t.view = { v with wires := wiresAt t.seq, regs := countSwitchEvent v.regs })
      (hwait : waitAt v.nWait t.seq = true)
  /-- A scan pass ends (R111). -/
  | passEnded (new cur : KeySet) (hrun : runningCommand t.seq = runningCommand q)
      (hview : t.view =
        { v with wires := wiresAt t.seq, regs := passRegs new cur v.regs, prev := cur })
      (hwait : waitAt v.nWait t.seq = true)
  /-- The command ends (R130). -/
  | ended (e : ErrCode) (f : Regs → Regs) (hf : ResultWrite e f) (hq : q ≠ .idle) (hseq : t.seq = .idle)
      (hview : t.view = { v with wires := wiresAt .idle, regs := endRegs e (f v.regs) })

section
variable {q q' : Seq} {s s' : State}

/-- A move to another position that changes nothing the invariant reads. -/
theorem Moves.stay (h : s.wires = wiresAt q) (hq' : wiresAt q' = wiresAt q)
    (hrun : runningCommand q' = runningCommand q) (hs' : s'.view = s.view := by rfl)
    (hwait : waitAt s.params.nWait q' = true := by rfl) : Moves q s.view (goto q' s') := by
  refine .goesOn hrun ?_ hwait
  rw [goto_seq, hq', ← h]
  exact hs'

/-- A drive that leads from the levels of one position to those of the next. -/
theorem Moves.drive {l : Line} {b : Bit} (h : s.wires = wiresAt q)
    (hq' : (wiresAt q).drive l b = wiresAt q') (hrun : runningCommand q' = runningCommand q)
    (hs' : s'.view = s.view := by rfl) (hwait : waitAt s.params.nWait q' = true := by rfl) :
    Moves q s.view (goto q' (drive l b s')) := by
  refine .goesOn hrun ?_ hwait
  have hw : s'.wires = s.wires := congrArg View.wires hs'
  rw [goto_seq, ← hq', ← h, ← hw, ← hs']
  exact drive_view l b s'

/-- A completion, from a position with the levels of an idle block. -/
theorem Moves.complete {e : ErrCode} {f : Regs → Regs} (h : s.wires = wiresAt q)
    (hf : ResultWrite e f) (hq' : (wiresAt q).release = wiresAt .idle) (hq : q ≠ .idle)
    (hs' : s'.view = s.view := by rfl) : Moves q s.view (complete e f s') := by
  refine .ended e f hf hq rfl ?_
  have hw : s'.wires = s.wires := congrArg View.wires hs'
  rw [← hq', ← h, ← hw, ← hs', complete_view hf]
  rfl

theorem Moves.raiseErr (e : ErrCode) (h : s.wires = wiresAt q)
    (hq' : (wiresAt q).release = wiresAt .idle) (hq : q ≠ .idle) (hs' : s'.view = s.view := by rfl) :
    Moves q s.view (raiseErr e s') :=
  .complete h (.nothing e) hq' hq hs'

theorem Moves.countEvent {t : State} (h : s.wires = wiresAt q) (hq' : wiresAt q' = wiresAt q)
    (hrun : runningCommand q' = runningCommand q)
    (ht : t.view = { s.view with regs := countSwitchEvent s.regs })
    (hwait : waitAt s.params.nWait q' = true := by rfl) :
    Moves q s.view (goto q' t) := by
  refine .event hrun ?_ hwait
  rw [goto_seq, hq', ← h]
  exact ht

theorem Moves.sampled (l : Line) (h : s.wires = wiresAt q) (hq' : wiresAt q' = wiresAt q)
    (hrun : runningCommand q' = runningCommand q) (hs' : s'.view = s.view := by rfl)
    (hwait : waitAt s.params.nWait q' = true := by rfl) :
    Moves q s.view (goto q' (sample l s').2) :=
  .stay h hq' hrun ((sample_view l s').trans hs') hwait

/-- An `Acquire`, granted or not. -/
theorem Moves.acquire {l : Line} {d : Dir} (hq : acquiresAt q = some (l, d))
    (h : s.wires = wiresAt q) : Moves q s.view (micro q s) := by
  obtain ⟨htake, hrelease, hwait⟩ := wiresAt_of_acquiresAt hq
  rw [micro_acquire s hq]
  rcases acquire_cases l d (onceGranted q) s with h' | h' <;> rw [h']
  · refine .goesOn (runningCommand_onceGranted q) ?_ (hwait _)
    have hw : (drawGrant s).2.wires = s.wires := congrArg View.wires (drawGrant_view s)
    rw [goto_seq, ← htake, ← h, ← hw, ← drawGrant_view s]
    exact take_view l d (drawGrant s).2
  · exact .raiseErr _ h hrelease (by rintro rfl; cases hq) (drawGrant_view s)

end

/-! ### The micro-actions of each command -/

theorem sendBitMicro_moves {v : Bit} {p : SendBitPos} {s : State}
    (h : s.wires = wiresAt (.sendBit v p)) : Moves (.sendBit v p) s.view (sendBitMicro v p s) := by
  cases p with
  | acquireClock | acquireData => exact .acquire rfl h
  | send p =>
    cases p with
    | clockLow | data | clockHigh => exact .drive h rfl rfl
    | holdLow | holdHigh => exact .stay h rfl rfl
  | finish => exact .complete h (.nothing .none) rfl nofun

theorem recvBitMicro_moves {p : RecvBitPos} {s : State} (h : s.wires = wiresAt (.recvBit p)) :
    Moves (.recvBit p) s.view (recvBitMicro p s) := by
  cases p with
  | acquireClock | acquireData => exact .acquire rfl h
  | recv p =>
    cases p with
    | clockLow | clockHigh => exact .drive h rfl rfl
    | holdLow | holdHigh => exact .stay h rfl rfl
    | sample => exact .sampled .sdi h rfl rfl
  | finish b => exact .complete h (.rxbit b) rfl nofun

/-- One micro-action of a RecvBit on a path of ADC_READ, performed at the position `q`. -/
theorem pathMicro_moves {ch : BitVec 2} {path : RecvPos → AdcPos} {got : Bit → AdcPos} {p : RecvPos}
    {q : AdcPos} {s s' : State} (h : s.wires = wiresAt (.adcRead ch q))
    (hq : wiresAt (.adcRead ch q) = wiresAt (.adcRead ch (path p)))
    (hpath : ∀ p, wiresAt (.adcRead ch (path p)) = wiresAt (.adcRead ch (.msbPath 0 p)))
    (hgot : ∀ b, wiresAt (.adcRead ch (got b)) = wiresAt (.adcRead ch .startMsb))
    (hs' : s'.view = s.view) :
    Moves (.adcRead ch q) s.view (pathMicro ch path got p s') := by
  have hw := hq.trans (hpath p)
  cases p with
  | clockLow | clockHigh => exact .drive h (by rw [hw, hpath]; rfl) rfl hs'
  | holdLow => exact .stay h (by rw [hw, hpath]; rfl) rfl hs'
  | sample => exact .sampled .sdi h (by rw [hw, hpath]; rfl) rfl hs'
  | holdHigh => exact .stay h (by rw [hw, hgot]; rfl) rfl hs'

theorem wiresAt_afterHeader (ch : BitVec 2) (k : Fin 5) :
    wiresAt (.adcRead ch (afterHeader k)) = wiresAt (.adcRead ch .startMsb) := by
  unfold afterHeader
  split <;> rfl

theorem adcMicro_moves {ch : BitVec 2} {p : AdcPos} {s : State} (h : s.wires = wiresAt (.adcRead ch p)) :
    Moves (.adcRead ch p) s.view (adcMicro ch p s) := by
  cases p with
  | acquireSelect | acquireClock | acquireOut | acquireIn => exact .acquire rfl h
  | selectLow => exact .drive h rfl rfl
  | holdSelected | holdReleased => exact .stay h rfl rfl
  | header k p =>
    cases p with
    | clockLow | data | clockHigh => exact .drive h rfl rfl
    | holdLow => exact .stay h rfl rfl
    | holdHigh => exact .stay h (wiresAt_afterHeader ch k) rfl
  | startMsb | sharedGot =>
    exact pathMicro_moves (p := .clockLow) h rfl (fun _ => rfl) (fun _ => rfl) rfl
  | msbPath | lsbPath => exact pathMicro_moves h rfl (fun _ => rfl) (fun _ => rfl) rfl
  | msbGot k b =>
    simp only [adcMicro]
    split
    · exact pathMicro_moves h rfl (fun _ => rfl) (fun _ => rfl) rfl
    · exact .sampled .sdi h rfl rfl
  | lsbGot k b =>
    simp only [adcMicro]
    split
    · exact pathMicro_moves h rfl (fun _ => rfl) (fun _ => rfl) rfl
    · exact .drive h rfl rfl
  | finish =>
    simp only [adcMicro]
    split
    · exact .complete h (.adcData ch _) rfl nofun
    · exact .raiseErr _ h rfl nofun

/-- A poll, made at a position of a wait: its sample is taken only below `N_WAIT`. -/
theorem pollMicro_moves {site site' : WaitSite} {p : WaitPos} {i : Nat} {s s' : State}
    (h : s.wires = wiresAt (.dhtRead (.wait site p))) (hs' : s'.view = s.view) :
    Moves (.dhtRead (.wait site p)) s.view (pollMicro site' i s') := by
  rcases pollMicro_cases site' i s' with ⟨h', hi⟩ | ⟨h', -⟩ <;> rw [h']
  · have hn : s'.params.nWait = s.params.nWait := congrArg View.nWait hs'
    exact .sampled .dht h rfl rfl hs' (decide_eq_true (hn ▸ hi))
  · exact .raiseErr _ h rfl nofun hs'

theorem dhtFinish_moves {site : WaitSite} {p : WaitPos} {s s' : State}
    (h : s.wires = wiresAt (.dhtRead (.wait site p))) (hs' : s'.view = s.view) :
    Moves (.dhtRead (.wait site p)) s.view (dhtFinish s') := by
  rcases dhtFinish_cases s' with ⟨h', hf⟩ | ⟨h', -⟩ <;> rw [h']
  · exact .complete h (.dhtData _ hf) rfl nofun hs'
  · exact .raiseErr _ h rfl nofun hs'

theorem dhtMicro_moves {p : DhtPos} {s : State} (h : s.wires = wiresAt (.dhtRead p))
    (hwait : waitAt s.params.nWait (.dhtRead p) = true) :
    Moves (.dhtRead p) s.view (dhtMicro p s) := by
  cases p with
  | acquireOut | acquireIn => exact .acquire rfl h
  | driveLow | driveHigh => exact .drive h rfl rfl
  | holdLow | holdHigh => exact .stay h rfl rfl
  | wait site p =>
    simp only [dhtMicro]
    rcases waitMicro_cases site p s with ⟨site', i, f, y, n, h'⟩ | ⟨i, b, rfl, h'⟩ | ⟨f, y, n, h'⟩ <;>
      rw [h']
    · exact pollMicro_moves h rfl
    · exact .stay h rfl rfl rfl (decide_eq_true (of_decide_eq_true hwait))
    · exact dhtFinish_moves h rfl

theorem wiresAt_afterRow (r : Fin 4) : wiresAt (.keypadRun (afterRow r)) = wiresAt (.keypadRun .top) := by
  unfold afterRow
  split <;> rfl

/-- With all rows low, one is driven high. -/
theorem wiresAt_rowHold (r : Fin 4) :
    (wiresAt (.keypadRun .top)).drive (.krow r) 1 = wiresAt (.keypadRun (.rowHold r)) :=
  congrArg (fun v => { wiresAt (.keypadRun .top) with krow := v }) (setRow_high r)

theorem drive_low_wiresAt_rowHold (r : Fin 4) :
    (wiresAt (.keypadRun (.rowHold r))).drive (.krow r) 0 = wiresAt (.keypadRun .top) :=
  congrArg (fun v => { wiresAt (.keypadRun .top) with krow := v }) (setRow_low r)

theorem keypadMicro_moves {p : KeypadPos} {s : State} (h : s.wires = wiresAt (.keypadRun p)) :
    Moves (.keypadRun p) s.view (keypadMicro p s) := by
  cases p with
  | acquireRow | acquireColumn => exact .acquire rfl h
  | top =>
    simp only [keypadMicro]
    split
    · exact .complete h (.nothing .none) rfl nofun
    · exact .drive h (wiresAt_rowHold 0) rfl
  | rowHigh r => exact .drive h (wiresAt_rowHold r) rfl
  | rowHold r => exact .stay h rfl rfl
  | firstColumn r => exact .sampled (.kcol 0) h rfl rfl
  | seen r c b =>
    simp only [keypadMicro]
    split
    · rename_i c' _
      exact .sampled (.kcol c') h rfl rfl (markKey_view r c b s)
    · exact .drive h ((drive_low_wiresAt_rowHold r).trans (wiresAt_afterRow r).symm) rfl
        (markKey_view r c b s)
  | endOfPass =>
    refine .passEnded (newKeys s.work.cur s.work.prev) s.work.cur rfl ?_ rfl
    rw [show wiresAt (keypadMicro .endOfPass s).seq = s.wires from h.symm]
    exact endOfPass_view s
  | scanHold => exact .stay h rfl rfl

theorem tiltMicro_moves {p : TiltPos} {s : State} (h : s.wires = wiresAt (.tiltRun p)) :
    Moves (.tiltRun p) s.view (tiltMicro p s) := by
  cases p with
  | acquireSwitch | acquireInd0 | acquireInd1 => exact .acquire rfl h
  | firstSample => exact .stay h rfl rfl (sample_view .swIn s)
  | settledSample => exact .sampled .swIn h rfl rfl
  | top =>
    have hview := waitEdgeMicro_view s
    simp only [tiltMicro]
    split <;> rename_i h' <;> rw [h'] at hview
    · exact .complete h (.nothing .none) rfl nofun hview
    · exact .stay h rfl rfl hview
    · exact .stay h rfl rfl hview
  | waitEdge =>
    have hview := waitEdgeMicro_view s
    simp only [tiltMicro]
    split <;> rename_i h' <;> rw [h'] at hview <;> exact .stay h rfl rfl hview
  | cancelled => exact .complete h (.nothing .none) rfl nofun
  | settleHold | reportHold => exact .stay h rfl rfl
  | report v => exact .countEvent h rfl rfl rfl

theorem slideMicro_moves {i0 i1 : Bit} {p : SlidePos} {s : State}
    (h : s.wires = wiresAt (.slideRun i0 i1 p)) :
    Moves (.slideRun i0 i1 p) s.view (slideMicro i0 i1 p s) := by
  cases p with
  | acquireSwitch | acquireInd0 | acquireInd1 => exact .acquire rfl h
  | driveStart => exact .stay h rfl rfl
  | firstSample => exact .stay h rfl rfl (sample_view .swIn s)
  | top =>
    have hview := waitEdgeMicro_view s
    simp only [slideMicro]
    split <;> rename_i h' <;> rw [h'] at hview
    · exact .complete h (.nothing .none) rfl nofun hview
    · exact .stay h rfl rfl hview
    · exact .stay h rfl rfl hview
  | waitEdge =>
    have hview := waitEdgeMicro_view s
    simp only [slideMicro]
    split <;> rename_i h' <;> rw [h'] at hview <;> exact .stay h rfl rfl hview
  | cancelled => exact .complete h (.nothing .none) rfl nofun
  | toggle e => exact .countEvent h rfl rfl rfl

/-- What one micro-action comes to, whatever command runs. -/
theorem micro_moves {q : Seq} {s : State} (hq : s.seq = q) (h : s.wires = wiresAt q)
    (hwait : waitAt s.params.nWait q = true) : Moves q s.view (micro q s) := by
  cases q with
  | idle => exact .goesOn (congrArg _ hq) (by rw [micro, hq, ← h]; rfl) (by rw [micro, hq]; rfl)
  | sendBit => exact sendBitMicro_moves h
  | recvBit => exact recvBitMicro_moves h
  | adcRead => exact adcMicro_moves h
  | dhtRead => exact dhtMicro_moves h hwait
  | keypadRun => exact keypadMicro_moves h
  | tiltRun => exact tiltMicro_moves h
  | slideRun => exact slideMicro_moves h

end Sys2Proof.Machine

/-! SUPPORT. Every step keeps the invariant: the sequencer's move, the host's access, reset. -/

namespace Sys2Proof.Machine

/-- The invariant, from what a state shows. -/
theorem inv_of_view {t : State} {r : Regs} {prev : KeySet} {n : Nat}
    (hview : t.view = ⟨r, prev, wiresAt t.seq, n⟩)
    (hregs : RegsAgree r prev (runningCommand t.seq)) (hwait : waitAt n t.seq = true) : t.Inv := by
  obtain ⟨hr, hp, hw, hn⟩ := View.mk.inj hview
  rw [State.inv_iff, hr, hp, hn]
  exact ⟨hregs, hw, hwait⟩

/-- Draws change nothing the invariant reads. -/
theorem drawTurn_inv {s : State} (h : s.Inv) : (drawTurn s).2.Inv := by
  obtain ⟨hregs, hwires, hwait⟩ := State.inv_iff.mp h
  have hseq := drawTurn_seq s
  refine inv_of_view (.trans (drawTurn_view s) ?_) (hseq ▸ hregs) (hseq ▸ hwait)
  rw [hseq, ← hwires]
  rfl

/-- Under the invariant the sequencer's turn is one of the moves. -/
theorem State.Inv.moves {s : State} (h : s.Inv) : Moves s.seq s.view (micro s.seq s) := by
  obtain ⟨-, hwires, hwait⟩ := State.inv_iff.mp h
  exact micro_moves rfl hwires hwait

theorem micro_inv {s : State} (h : s.Inv) : (micro s.seq s).Inv := by
  obtain ⟨hregs, -⟩ := State.inv_iff.mp h
  cases h.moves with
  | goesOn hrun hview hwait => exact inv_of_view hview (hrun ▸ hregs) hwait
  | event hrun hview hwait => exact inv_of_view hview (hrun ▸ hregs.countSwitchEvent) hwait
  | passEnded new cur hrun hview hwait =>
    exact inv_of_view hview (hrun ▸ hregs.passEnded new cur) hwait
  | ended e f hf hq hseq hview =>
    rw [← hseq] at hview
    exact inv_of_view hview (hseq ▸ hregs.ended hf) (hseq ▸ rfl)

theorem State.Inv.idle_of_not_busy {s : State} (h : s.Inv) (hb : s.regs.status.busy ≠ 1) :
    s.seq = .idle := by
  by_contra hne
  exact hb (h.busy.mpr hne)

/-- A write to `CMD` keeps the invariant (R66). -/
theorem issue_inv {w : Word} {s t : State} (hinv : s.Inv) (h : issue exec w s = .next t) : t.Inv := by
  obtain ⟨hregs, hwires, hwait⟩ := State.inv_iff.mp hinv
  rcases issue_cases h with ⟨-, rfl⟩ | ⟨hb, -, rfl⟩ | ⟨hb, i, hi, hexec⟩
  · exact State.inv_iff.mpr ⟨hregs.cmdRej 1, hwires, hwait⟩
  · have hidle := hinv.idle_of_not_busy hb
    rw [hidle] at hregs
    refine State.inv_iff.mpr ⟨?_, hwires, hwait⟩
    rw [illegalCommand_seq, hidle]
    exact (hregs.storeCmd w).illegal
  · have hidle := hinv.idle_of_not_busy hb
    rw [hidle] at hregs
    have haccept := exec_accept (i := i) (s := { s with regs := { s.regs with cmd := w } }) hidle
    cases haccept.symm.trans hexec
    rw [State.inv_iff, accept_seq, runningCommand_startOf, wiresAt_startOf, ← hidle]
    exact ⟨(hregs.storeCmd w).accepted hi, hwires, waitAt_startOf _ i⟩

theorem hostTurn_inv {s t : State} (hinv : s.Inv) (h : hostTurn exec s = .next t) : t.Inv := by
  obtain ⟨hregs, hwires, hwait⟩ := State.inv_iff.mp hinv
  obtain ⟨e, -, -, -, rfl | ⟨w, hi | rfl | rfl⟩⟩ := hostTurn_cases h
  · exact { hinv with }
  · exact issue_inv (s := { s with env := e }) { hinv with } hi
  · exact State.inv_iff.mpr ⟨hregs.writeStatus w, hwires, hwait⟩
  · exact State.inv_iff.mpr ⟨hregs.cancel _, hwires, hwait⟩

theorem assertReset_inv (s : State) : (assertReset s).Inv := by
  obtain ⟨hregs, hwires, -⟩ := State.inv_iff.mp resetMeetsInvariant
  exact State.inv_iff.mpr ⟨hregs, hwires, rfl⟩

/-- Settles O24: the sequencer's move, the host's access and reset each keep both halves of the
invariant. -/
theorem everyStepKeepsInvariant : Obligations.EveryStepKeepsInvariant := by
  unfold Obligations.EveryStepKeepsInvariant
  intro s t hinv hstep
  have hdrawn := drawTurn_inv hinv
  rcases step_cases hstep with ⟨-, rfl⟩ | ⟨-, hhost⟩ | ⟨-, rfl⟩
  · exact drawTurn_seq s ▸ micro_inv hdrawn
  · exact hostTurn_inv hdrawn hhost
  · exact assertReset_inv _

end Sys2Proof.Machine

/-! SUPPORT. The data of the result registers, which only a completion with NONE changes. -/

namespace Sys2Proof.Machine

/-- The data fields of the result registers (R26 to R29). -/
structure ResultData where
  bit : Bit
  sample : Byte
  ch : BitVec 2
  dhtData : DhtData
  csum : Byte

def Regs.resultData (r : Regs) : ResultData where
  bit := r.rxbit.bit
  sample := r.adcData.sample
  ch := r.adcData.ch
  dhtData := r.dhtData
  csum := r.dhtCsum.csum

@[simp] theorem acceptanceClears_resultData (i : Instr) (r : Regs) :
    (acceptanceClears i r).resultData = r.resultData := by
  cases i <;> rfl

theorem passRegs_resultData (new cur : KeySet) (r : Regs) :
    (passRegs new cur r).resultData = r.resultData := by
  unfold passRegs
  split <;> rfl

theorem issue_resultData {w : Word} {s t : State} (hinv : s.Inv) (h : issue exec w s = .next t) :
    t.regs.resultData = s.regs.resultData := by
  rcases issue_cases h with ⟨-, rfl⟩ | ⟨-, -, rfl⟩ | ⟨hb, i, -, hexec⟩
  · rfl
  · rfl
  · have haccept := exec_accept (i := i) (s := { s with regs := { s.regs with cmd := w } })
      (hinv.idle_of_not_busy hb)
    cases haccept.symm.trans hexec
    exact acceptanceClears_resultData i { s.regs with cmd := w }

/-- No host access changes the data of a result register. -/
theorem hostTurn_resultData {s t : State} (hinv : s.Inv) (h : hostTurn exec s = .next t) :
    t.regs.resultData = s.regs.resultData := by
  obtain ⟨e, -, -, -, rfl | ⟨w, hi | rfl | rfl⟩⟩ := hostTurn_cases h
  · rfl
  · exact issue_resultData (s := { s with env := e }) { hinv with } hi
  · rfl
  · rfl

/-- Result registers `r'` whose data differ from those of `r` show it as `VALID` (R148). -/
def NewDataValid (r r' : Regs) : Prop :=
  (r'.rxbit.bit ≠ r.rxbit.bit → r'.rxbit.valid = 1) ∧
    (r'.adcData.sample ≠ r.adcData.sample ∨ r'.adcData.ch ≠ r.adcData.ch → r'.adcData.valid = 1) ∧
    (r'.dhtData ≠ r.dhtData ∨ r'.dhtCsum.csum ≠ r.dhtCsum.csum → r'.dhtCsum.valid = 1)

/-- A completion that changes data does so with NONE, and the data it writes is `VALID`. -/
theorem ResultWrite.newDataValid {e : ErrCode} {f : Regs → Regs} (hf : ResultWrite e f) (r : Regs)
    (h : (endRegs e (f r)).resultData ≠ r.resultData) :
    e = .none ∧ NewDataValid r (endRegs e (f r)) := by
  cases hf with
  | nothing => exact absurd rfl h
  | rxbit | adcData | dhtData =>
    simp [NewDataValid, endRegs, recvBitResult, adcResult, dhtResult]

/-- Of the moves of a running command, only its completion with NONE changes the data of a result
register. -/
theorem Moves.newDataValid {q : Seq} {v : View} {t : State} (h : Moves q v t)
    (hdata : t.regs.resultData ≠ v.regs.resultData) :
    q ≠ .idle ∧ ∃ r, t.regs = endRegs .none r ∧ NewDataValid v.regs t.regs := by
  cases h with
  | goesOn hrun hview =>
    have hregs : t.regs = v.regs := congrArg View.regs hview
    exact absurd (congrArg _ hregs) hdata
  | event hrun hview =>
    have hregs : t.regs = countSwitchEvent v.regs := congrArg View.regs hview
    exact absurd (congrArg Regs.resultData hregs) hdata
  | passEnded new cur hrun hview =>
    have hregs : t.regs = passRegs new cur v.regs := congrArg View.regs hview
    exact absurd ((congrArg _ hregs).trans (passRegs_resultData new cur v.regs)) hdata
  | ended e f hf hq hseq hview =>
    have hregs : t.regs = endRegs e (f v.regs) := congrArg View.regs hview
    rw [hregs] at hdata ⊢
    obtain ⟨rfl, hvalid⟩ := hf.newDataValid v.regs hdata
    exact ⟨hq, _, rfl, hvalid⟩

/-- Settles O30: neither a host access nor a move that goes on changes data, and a completion that does
ends with NONE. -/
theorem resultDataChangesOnlyAtSuccess : Obligations.ResultDataChangesOnlyAtSuccess := by
  unfold Obligations.ResultDataChangesOnlyAtSuccess
  intro s t hrst hstep hinv hdata
  have hne : t.regs.resultData ≠ s.regs.resultData := by
    intro he
    obtain ⟨hbit, hsample, hch, hdht, hcsum⟩ := ResultData.mk.inj he
    simp [hbit, hsample, hch, hdht, hcsum] at hdata
  have hdrawn := drawTurn_inv hinv
  rcases step_cases hstep with ⟨-, rfl⟩ | ⟨-, hhost⟩ | ⟨hreset, -⟩
  · have hmoves := hdrawn.moves
    rw [drawTurn_view, drawTurn_seq] at hmoves
    obtain ⟨hq, r, hend, hvalid⟩ := hmoves.newDataValid hne
    exact ⟨hinv.busy.mpr hq, by rw [hend]; rfl, by rw [hend]; rfl, by rw [hend]; rfl, hvalid⟩
  · exact absurd ((hostTurn_resultData hdrawn hhost).trans (by rw [drawTurn_regs])) hne
  · exact absurd hreset hrst

end Sys2Proof.Machine

/-! SUPPORT. `CANCEL` and the commands that do not read it. -/

namespace Sys2Proof.Machine

/-- The state with another value of `CTRL.CANCEL`. -/
def State.withCancel (c : Bit) (s : State) : State := { s with regs := { s.regs with cancel := c } }

@[simp] theorem withCancel_seq (c : Bit) (s : State) : (s.withCancel c).seq = s.seq := rfl
@[simp] theorem withCancel_work (c : Bit) (s : State) : (s.withCancel c).work = s.work := rfl
@[simp] theorem withCancel_env (c : Bit) (s : State) : (s.withCancel c).env = s.env := rfl
@[simp] theorem withCancel_params (c : Bit) (s : State) : (s.withCancel c).params = s.params := rfl

/-- An operation does the same with another value of `CANCEL`, and leaves it as it is. -/
def IgnoresCancel (f : State → State) : Prop :=
  ∀ c s, f (s.withCancel c) = (f s).withCancel c

theorem sample_withCancel (l : Line) (c : Bit) (s : State) :
    sample l (s.withCancel c) = ((sample l s).1, (sample l s).2.withCancel c) := by
  simp only [sample, drawLevel, withCancel_env]
  cases s.env.levels <;> rfl

theorem acquire_ignoresCancel (l : Line) (d : Dir) (next : Seq) : IgnoresCancel (acquire l d next) := by
  intro c s
  simp only [acquire, drawGrant, withCancel_env]
  rcases s.env.grants with _ | ⟨_ | _, gs⟩
  · cases Config.freeGrant s.env.drawn <;> rfl
  · rfl
  · rfl

theorem raiseErr_ignoresCancel (e : ErrCode) : IgnoresCancel (raiseErr e) := by
  intro c s
  cases e <;> rfl

theorem sendMicro_ignoresCancel (v : Bit) (p : SendPos) : IgnoresCancel (sendMicro v p) := by
  intro c s
  cases p <;> rfl

theorem sendBitMicro_ignoresCancel (v : Bit) (p : SendBitPos) : IgnoresCancel (sendBitMicro v p) := by
  cases p with
  | acquireClock | acquireData => exact acquire_ignoresCancel _ _ _
  | send p =>
    intro c s
    cases p <;> rfl
  | finish => exact fun c s => rfl

theorem recvMicro_withCancel (p : RecvPos) (c : Bit) (s : State) :
    recvMicro p (s.withCancel c) = ((recvMicro p s).1, (recvMicro p s).2.withCancel c) := by
  cases p with
  | sample => simp only [recvMicro, sample_withCancel]
  | clockLow | holdLow | clockHigh | holdHigh => rfl

theorem recvBitMicro_ignoresCancel (p : RecvBitPos) : IgnoresCancel (recvBitMicro p) := by
  cases p with
  | acquireClock | acquireData => exact acquire_ignoresCancel _ _ _
  | recv p =>
    intro c s
    simp only [recvBitMicro, recvMicro_withCancel]
    rcases recvMicro p s with ⟨_ | _, s'⟩ <;> rfl
  | finish b => exact fun c s => rfl

theorem pathMicro_ignoresCancel (ch : BitVec 2) (path : RecvPos → AdcPos) (got : Bit → AdcPos)
    (p : RecvPos) : IgnoresCancel (pathMicro ch path got p) := by
  intro c s
  simp only [pathMicro, recvMicro_withCancel]
  rcases recvMicro p s with ⟨_ | _, s'⟩ <;> rfl

theorem sharedMicro_ignoresCancel (ch : BitVec 2) : IgnoresCancel (sharedMicro ch) := by
  intro c s
  simp only [sharedMicro, sample_withCancel]
  rfl

theorem adcMicro_ignoresCancel (ch : BitVec 2) (p : AdcPos) : IgnoresCancel (adcMicro ch p) := by
  intro c s
  cases p with
  | acquireSelect | acquireClock | acquireOut | acquireIn => exact acquire_ignoresCancel _ _ _ c s
  | selectLow | holdSelected | holdReleased => rfl
  | header k p => cases p <;> rfl
  | startMsb =>
    exact pathMicro_ignoresCancel ch (.msbPath 0) (.msbGot 0) .clockLow c
      { s with work := { s.work with msb := 0 } }
  | msbPath k p | lsbPath k p => exact pathMicro_ignoresCancel ch _ _ p c s
  | msbGot k b =>
    simp only [adcMicro]
    split
    · exact pathMicro_ignoresCancel ch _ _ _ c (foldMsb b s)
    · exact sharedMicro_ignoresCancel ch c (foldMsb b s)
  | sharedGot b =>
    exact pathMicro_ignoresCancel ch (.lsbPath 0) (.lsbGot 0) .clockLow c
      { s with work := { s.work with msb := shiftIn s.work.msb b, lsb := b.setWidth 8 } }
  | lsbGot k b =>
    simp only [adcMicro]
    split
    · exact pathMicro_ignoresCancel ch _ _ _ c (foldLsb b _ s)
    · rfl
  | finish =>
    simp only [adcMicro, withCancel_work, apply_ite (State.withCancel c)]
    rfl

theorem pollMicro_ignoresCancel (site : WaitSite) (i : Nat) : IgnoresCancel (pollMicro site i) := by
  intro c s
  simp only [pollMicro, sample_withCancel, withCancel_params]
  split <;> rfl

theorem dhtFinish_ignoresCancel : IgnoresCancel dhtFinish := by
  intro c s
  simp only [dhtFinish, withCancel_work, apply_ite (State.withCancel c)]
  rfl

theorem afterWait_ignoresCancel (site : WaitSite) (i : Nat) : IgnoresCancel (afterWait site i) := by
  intro c s
  simp only [afterWait]
  split
  · rename_i site' _
    exact pollMicro_ignoresCancel site' 0 c
      { s with work := enterWait site' (waitReturns site i s.params.dhtThresh s.work) }
  · exact dhtFinish_ignoresCancel c
      { s with work := waitReturns site i s.params.dhtThresh s.work }

theorem dhtMicro_ignoresCancel (p : DhtPos) : IgnoresCancel (dhtMicro p) := by
  intro c s
  cases p with
  | acquireOut | acquireIn => exact acquire_ignoresCancel _ _ _ c s
  | driveLow | holdLow | driveHigh | holdHigh => rfl
  | wait site p =>
    cases p with
    | poll i => exact pollMicro_ignoresCancel site i c s
    | seen i b =>
      simp only [dhtMicro, waitMicro]
      split
      · exact afterWait_ignoresCancel site i c s
      · rfl

theorem accept_ignoresCancel (i : Instr) : IgnoresCancel (accept i) := by
  intro c s
  cases i <;> rfl

/-- The commands that do not read `CANCEL` (R24, R107, R150). -/
def IsProtocol (i : Instr) : Prop :=
  i = .recvBit ∨ i = .dhtRead ∨ (∃ v, i = .sendBit v) ∨ ∃ ch, i = .adcRead ch

/-- The micro-action of a running protocol command does not read `CANCEL`. -/
theorem micro_ignoresCancel {q : Seq} {i : Instr} (hq : runningCommand q = some i)
    (hi : IsProtocol i) : IgnoresCancel (micro q) := by
  cases q with
  | idle => cases hq
  | sendBit v p => exact sendBitMicro_ignoresCancel v p
  | recvBit p => exact recvBitMicro_ignoresCancel p
  | adcRead ch p => exact adcMicro_ignoresCancel ch p
  | dhtRead p => exact dhtMicro_ignoresCancel p
  | keypadRun | tiltRun | slideRun =>
    cases hq
    simp [IsProtocol] at hi

/-- Settles O40: whether the command is accepted, performs a micro-action or is turned away, nothing
in it reads `CANCEL`. -/
theorem cancelDoesNotReachProtocolCommands : Obligations.CancelDoesNotReachProtocolCommands := by
  unfold Obligations.CancelDoesNotReachProtocolCommands
  intro s t i c hi hexec
  change exec i (s.withCancel c) = .next (t.withCancel c)
  by_cases hidle : s.seq = .idle
  · cases (exec_accept hidle).symm.trans hexec
    rw [exec_accept (s := s.withCancel c) hidle, accept_ignoresCancel]
  · by_cases hrun : runningCommand s.seq = some i
    · cases (exec_eq_micro hrun).symm.trans hexec
      rw [exec_eq_micro (s := s.withCancel c) hrun, withCancel_seq, micro_ignoresCancel hrun hi]
    · cases (exec_other hidle hrun).symm.trans hexec
      exact exec_other hidle hrun

end Sys2Proof.Machine

/-! SUPPORT. The register window seen from one step: writes of the host, what the words hold, and reset. -/

namespace Sys2Proof.Machine

/-! ### A queued write of the host (R48, R49, R66) -/

/-- The host's turn with a register write queued is that write, after turn and statement are taken. -/
theorem step_hostW {s : State} {r : Reg} {w : Word} {ts : List Turn} {hs : List HostStmt}
    (hturns : s.env.turns = .host :: ts) (hhost : s.env.host = hostW s.params.base r w :: hs) :
    step s = writeOffset exec (regOffset r) w { s with env := { s.env with turns := ts, host := hs } } := by
  rw [step_host hturns]
  refine (hostTurn_access (s := { s with env := { s.env with turns := ts } }) hhost).trans ?_
  simp only [performAccess, windowOffset_reg]

/-- A write to `CMD` is an issue. -/
theorem writeOffset_cmd (run : Instr → State → Result) (w : Word) (s : State) :
    writeOffset run (regOffset .cmd) w s = issue run w s := rfl

/-- An idle block executes the command of a legal word, stored in `CMD` first (R66). -/
theorem issue_legal {run : Instr → State → Result} {w : Word} {i : Instr} {s : State}
    (hbusy : s.regs.status.busy = 0) (hw : decode w = .ok i) :
    issue run w s = run i { s with regs := { s.regs with cmd := w } } := by
  have hne : s.regs.status.busy ≠ 1 := by
    rw [hbusy]
    decide
  simp only [issue, if_neg hne, hw]

/-- Settles O9: the host's turn is an issue of the word, the sequencer's turn runs the command of `SEQ`. -/
theorem stepRunsDecodedCommand : Obligations.StepRunsDecodedCommand := by
  unfold Obligations.StepRunsDecodedCommand
  refine ⟨fun s w i ts hs hturns hhost hbusy hw => ?_, fun s i ts hturns hrun => ?_⟩
  · rw [step_hostW hturns hhost, writeOffset_cmd]
    exact issue_legal hbusy hw
  · rw [step_seq hturns]
    simp only [sequencerTurn, hrun]

theorem wordBit_eq_one (w : Word) (i : Nat) : wordBit w i = 1 ↔ w.getLsbD i = true := by
  rw [BitVec.getLsbD_eq_extractLsb', beq_iff_eq]
  rfl

/-- A write-one-to-clear field, by the bit written. -/
theorem clearedBy_wordBit (w : Word) (i : Nat) (flag : Bit) :
    clearedBy (wordBit w i) flag = if w.getLsbD i then 0 else flag := by
  simp only [clearedBy, wordBit_eq_one]

theorem wordBit_eq_ite (w : Word) (i : Nat) : wordBit w i = if w.getLsbD i then 1 else 0 := by
  rw [bit_eq_ite, wordBit_eq_one]

/-- Settles O20: each write is taken by its register, bit by bit for `STATUS` and `CTRL`. -/
theorem writesHaveOnlyTheirSideEffects : Obligations.WritesHaveOnlyTheirSideEffects := by
  unfold Obligations.WritesHaveOnlyTheirSideEffects
  intro s w ts hs hturns
  refine ⟨fun hhost => ?_, fun hhost => ?_, fun r hr hhost => ?_⟩
  · rw [step_hostW hturns hhost]
    simp only [writeOffset, regAt_regOffset, writeStatus, writeStatusFlags, clearedBy_wordBit,
      wordBit_eq_one]
  · rw [step_hostW hturns hhost]
    simp only [writeOffset, regAt_regOffset, wordBit_eq_ite]
  · rw [step_hostW hturns hhost]
    simp only [List.mem_cons, List.not_mem_nil, or_false] at hr
    rcases hr with rfl | rfl | rfl | rfl | rfl | rfl | rfl <;> rfl

/-! ### Fields of words (R22 to R32, R45) -/

/-- The value of a concatenation. -/
theorem toNat_append_add {m n : Nat} (x : BitVec m) (y : BitVec n) :
    (x ++ y).toNat = 2 ^ n * x.toNat + y.toNat := by
  rw [BitVec.toNat_append, ← Nat.shiftLeft_add_eq_or_of_lt y.isLt, Nat.shiftLeft_eq, Nat.mul_comm]

theorem statusWord_toNat (st : Status) :
    (statusWord st).toNat =
      st.busy.toNat + 2 * st.done.toNat + 4 * st.cmdRej.toNat + 16 * (errValue st.err).toNat +
        256 * st.keyEvt.toNat + 512 * st.keyOvr.toNat + 1024 * st.swEvt.toNat := by
  simp only [statusWord, toNat_append_add, BitVec.toNat_ofNat]
  omega

/-- Settles O16: each word is the concatenation of its fields, the lowest one last. -/
theorem registerWordsPlaceTheirFields : Obligations.RegisterWordsPlaceTheirFields := by
  unfold Obligations.RegisterWordsPlaceTheirFields
  intro s
  refine ⟨rfl, (statusWord_toNat s.regs.status).trans ?_, ?_, ?_, ?_, ?_, ?_, ?_, ?_, ?_⟩
  · cases s.regs.status.err <;> rfl
  all_goals
    simp only [readOffset, regAt, regWord, toNat_append_add, BitVec.toNat_ofNat]
    omega

/-- The lanes of a word are the bytes it is made of (R45). -/
theorem byteLane_ofLanes (b0 b1 b2 b3 : Byte) :
    byteLane (ofLanes b0 b1 b2 b3) 0 = b0 ∧ byteLane (ofLanes b0 b1 b2 b3) 1 = b1 ∧
      byteLane (ofLanes b0 b1 b2 b3) 2 = b2 ∧ byteLane (ofLanes b0 b1 b2 b3) 3 = b3 := by
  have above {m : Nat} (hi : BitVec m) (lo : Byte) (k : Nat) :
      (hi ++ lo).extractLsb' (8 * (k + 1)) 8 = hi.extractLsb' (8 * k) 8 :=
    BitVec.extractLsb'_append_eq_of_le (by omega)
  refine ⟨BitVec.extractLsb'_append_eq_right, ?_, ?_, ?_⟩
  · exact (above _ b0 0).trans BitVec.extractLsb'_append_eq_right
  · exact ((above _ b0 1).trans (above _ b1 0)).trans BitVec.extractLsb'_append_eq_right
  · exact ((above _ b0 2).trans (above _ b1 1)).trans BitVec.extractLsb'_append_eq_left

/-- A word is made of its lanes: each concatenation joins two neighbouring ranges of bits. -/
theorem ofLanes_byteLane (w : Word) :
    ofLanes (byteLane w 0) (byteLane w 1) (byteLane w 2) (byteLane w 3) = w := by
  calc ofLanes (byteLane w 0) (byteLane w 1) (byteLane w 2) (byteLane w 3)
      = w.extractLsb' 24 8 ++ w.extractLsb' 16 8 ++ w.extractLsb' 8 8 ++ w.extractLsb' 0 8 := rfl
    _ = w.extractLsb' 0 32 := by
      rw [BitVec.extractLsb'_append_extractLsb'_eq_extractLsb' (start₂ := 24) rfl,
        BitVec.extractLsb'_append_extractLsb'_eq_extractLsb' (start₂ := 16) rfl,
        BitVec.extractLsb'_append_extractLsb'_eq_extractLsb' (start₂ := 8) rfl]
    _ = w := BitVec.extractLsb'_eq_self

/-- Settles O17: a lane is eight bits of the word, and `DHT_DATA` is made of the frame bytes as lanes. -/
theorem byteLanesAreLittleEndian : Obligations.ByteLanesAreLittleEndian := by
  unfold Obligations.ByteLanesAreLittleEndian
  refine ⟨fun w k b _ hb => ?_, ofLanes_byteLane, fun s => byteLane_ofLanes _ _ _ _⟩
  simp [byteLane, hb]

/-! ### Reset (R141, R142) -/

theorem regWord_eq_zero_of_regs {s : State} (hregs : s.regs = State.reset.regs)
    (hports : s.ports = State.reset.ports) (hwork : s.work = State.reset.work) (r : Reg) :
    regWord s r = 0 := by
  cases r <;> simp only [regWord, hregs, hports, hwork] <;> rfl

/-- Settles O12: the words of the reset state are 0 field by field. -/
theorem resetStateReadsZero : Obligations.ResetStateReadsZero := by
  unfold Obligations.ResetStateReadsZero
  exact ⟨regWord_eq_zero_of_regs rfl rfl rfl, rfl, rfl, Own.get_empty, rfl⟩

/-- Settles O11: an asserted `RST` gives the block the fields of the reset state. -/
theorem resetSetsEveryRegisterAndPort : Obligations.ResetSetsEveryRegisterAndPort := by
  unfold Obligations.ResetSetsEveryRegisterAndPort
  intro s ts hturns
  exact ⟨_, step_rst hturns, regWord_eq_zero_of_regs rfl rfl rfl, rfl, rfl, rfl, Own.get_empty, rfl,
    rfl, rfl⟩

/-! ### The request of DHT_READ (R99) -/

theorem execN_two {i : Instr} {s t u : State} (h : exec i s = .next t) (h' : exec i t = .next u) :
    execN 2 i s = .next u := by
  rw [execN_succ h, execN_succ h', execN_zero]

/-- Settles O43: three pairs of micro-actions of the request, each run from its position. -/
theorem dhtRequestDrivesThenReleases : Obligations.DhtRequestDrivesThenReleases := by
  unfold Obligations.DhtRequestDrivesThenReleases
  intro s gs
  refine ⟨fun hs hgrants => ?_, fun hs => ?_, fun hs hgrants => ?_⟩
  · have hacquire : exec .dhtRead s = .next _ :=
      (exec_at hs rfl).trans (congrArg _ (acquire_ok hgrants))
    exact execN_two hacquire (exec_at rfl rfl)
  · exact execN_two (exec_at hs rfl) (exec_at rfl rfl)
  · have hacquire := exec_at (i := .dhtRead) (s := micro (.dhtRead .holdHigh) s) rfl rfl
    exact execN_two (exec_at hs rfl) (hacquire.trans (congrArg _ (acquire_ok hgrants)))

end Sys2Proof.Machine

/-! SUPPORT. The register window seen from one step: reads, polls, the accesses the block does not admit,
and what the host reaches while a command runs. -/

namespace Sys2Proof.Machine

/-! ### Every outcome of a step (R43, R44, R51, R129) -/

/-- A command is accepted, goes on, or is turned away. -/
theorem exec_answers (i : Instr) (s : State) : ∃ t, exec i s = .next t := by
  by_cases hidle : s.seq = .idle
  · exact ⟨_, exec_accept hidle⟩
  · by_cases hrun : runningCommand s.seq = some i
    · exact ⟨_, exec_eq_micro hrun⟩
    · exact ⟨_, exec_other hidle hrun⟩

theorem issue_answers (w : Word) (s : State) : ∃ t, issue exec w s = .next t := by
  unfold issue
  split
  · exact ⟨_, rfl⟩
  · split
    · exact exec_answers _ _
    · exact ⟨_, rfl⟩

theorem writeOffset_answers (offset : Nat) (w : Word) (s : State) :
    ∃ t, writeOffset exec offset w s = .next t := by
  unfold writeOffset
  split
  case h_1 => exact issue_answers w s
  all_goals exact ⟨_, rfl⟩

/-- The window gives an offset, or the access is one the block does not admit. -/
theorem windowOffset_ok_or_bad (base addr width : Nat) :
    (∃ offset, windowOffset base addr width = .ok offset) ∨
      ∃ f, windowOffset base addr width = .error f ∧
        (addr < base ∨ base + 0x3F < addr ∨ width ≠ 4 ∨ (addr - base) % 4 ≠ 0) := by
  rcases windowOffset_cases base addr width with ⟨h, hout⟩ | ⟨h, -, -, hbad⟩ | ⟨h, -⟩
  · exact .inr ⟨_, h, hout.imp_right .inl⟩
  · exact .inr ⟨_, h, .inr (.inr hbad)⟩
  · exact .inl ⟨_, h⟩

theorem performAccess_answers (a : Access) (s : State) :
    (∃ t, performAccess exec a s = .next t) ∨
      ∃ f, performAccess exec a s = .fault f ∧ badAccess s.params.base (.access a) := by
  cases a with
  | read addr width =>
    rcases windowOffset_ok_or_bad s.params.base addr width with ⟨offset, h⟩ | ⟨f, h, hbad⟩
    · simp only [performAccess, h]
      exact .inl ⟨_, rfl⟩
    · exact .inr ⟨f, by simp only [performAccess, h], hbad⟩
  | write addr width w =>
    rcases windowOffset_ok_or_bad s.params.base addr width with ⟨offset, h⟩ | ⟨f, h, hbad⟩
    · simp only [performAccess, h]
      exact .inl (writeOffset_answers offset w s)
    · exact .inr ⟨f, by simp only [performAccess, h], hbad⟩

theorem performPoll_answers (addr : Nat) (mask val : Word) (s : State) :
    (∃ t, performPoll addr mask val s = .next t) ∨
      ∃ f, performPoll addr mask val s = .fault f ∧ badAccess s.params.base (.poll addr mask val) := by
  rcases windowOffset_ok_or_bad s.params.base addr 4 with ⟨offset, h⟩ | ⟨f, h, hbad⟩
  · simp only [performPoll, h, ← apply_ite Host.Outcome.next]
    exact .inl ⟨_, rfl⟩
  · exact .inr ⟨f, by simp only [performPoll, h], by simpa [badAccess] using hbad⟩

/-- A turn of the host is carried out, or faults on a statement that is a bad access. -/
theorem hostTurn_answers (s : State) :
    (∃ t, hostTurn exec s = .next t) ∨
      ∃ f h, hostTurn exec s = .fault f ∧ nextStatement s = some h ∧ badAccess s.params.base h := by
  unfold hostTurn
  split <;> rename_i hnext
  · rename_i a
    rcases performAccess_answers a (takeStatement s) with h | ⟨f, h, hbad⟩
    · exact .inl h
    · exact .inr ⟨f, _, h, hnext, takeStatement_params s ▸ hbad⟩
  · rename_i addr mask val
    rcases performPoll_answers addr mask val s with h | ⟨f, h, hbad⟩
    · exact .inl h
    · exact .inr ⟨f, _, h, hnext, hbad⟩
  all_goals exact .inl ⟨_, rfl⟩

/-- A step is carried out, or faults on a bad access of the host. -/
theorem step_answers (s : State) :
    (∃ t, step s = .next t) ∨
      ∃ f, step s = .fault f ∧ (drawTurn s).1 = .host ∧
        ∃ h, nextStatement (drawTurn s).2 = some h ∧ badAccess s.params.base h := by
  unfold step
  split <;> rename_i s' hdraw
  · exact .inl ⟨_, sequencerTurn_eq_micro s'⟩
  · rcases hostTurn_answers s' with h | ⟨f, h, hfault, hnext, hbad⟩
    · exact .inl h
    · have hparams := drawTurn_params s
      rw [hdraw] at hparams ⊢
      exact .inr ⟨f, hfault, rfl, h, hnext, hparams ▸ hbad⟩
  · exact .inl ⟨_, rfl⟩

/-- Settles O14: a step that answers no next state is a fault of a bad access. -/
theorem onlyBadHostAccessStops : Obligations.OnlyBadHostAccessStops := by
  unfold Obligations.OnlyBadHostAccessStops
  intro s
  rcases step_answers s with ⟨t, hnext⟩ | ⟨f, hfault, hhost, hbad⟩
  · simp [hnext]
  · simp [hfault, hhost, hbad]

/-! ### The host while a command runs (R57, R58) -/

/-- While a command runs, a turn of the host reaches of the block only `CANCEL`, `KEY_NEW` and the flags of
`STATUS` other than `BUSY` and `ERR`, and consumes no answer of the environment. -/
theorem hostTurn_of_busy {run : Instr → State → Result} {s t : State}
    (hbusy : s.regs.status.busy = 1) (h : hostTurn run s = .next t) :
    ∃ (e : Env) (st : Status) (c : Bit) (keys : KeySet),
      t = { s with env := e, regs := { s.regs with status := st, cancel := c, keyNew := keys } } ∧
        st.busy = s.regs.status.busy ∧ st.err = s.regs.status.err ∧
        e.levels = s.env.levels ∧ e.grants = s.env.grants := by
  obtain ⟨e, hlevels, hgrants, -, rfl | ⟨w, hissue | rfl | rfl⟩⟩ := hostTurn_cases h
  · exact ⟨e, _, _, _, rfl, rfl, rfl, hlevels, hgrants⟩
  · rcases issue_cases hissue with ⟨-, rfl⟩ | ⟨hidle, -⟩ | ⟨hidle, -⟩
    · exact ⟨e, _, _, _, rfl, rfl, rfl, hlevels, hgrants⟩
    all_goals exact absurd hbusy hidle
  all_goals exact ⟨e, _, _, _, rfl, rfl, rfl, hlevels, hgrants⟩

/-- Settles O22: a running command turns a `CMD` write away, and no other access reaches what it uses. -/
theorem hostAccessLeavesRunningCommandAlone : Obligations.HostAccessLeavesRunningCommandAlone := by
  unfold Obligations.HostAccessLeavesRunningCommandAlone
  intro s t ts hturns hbusy hstep
  rw [step_host hturns] at hstep
  obtain ⟨e, st, c, keys, rfl, hb, herr, hlevels, hgrants⟩ :=
    hostTurn_of_busy (s := { s with env := { s.env with turns := ts } }) hbusy hstep
  exact ⟨rfl, rfl, rfl, rfl, rfl, rfl, hb.trans hbusy, herr, rfl, rfl, rfl, rfl, rfl, rfl, hlevels,
    hgrants, rfl⟩

/-! ### A queued access of the host (R43, R44, R47, R50, R51, R78) -/

/-- The host's turn with an access queued is that access, after turn and statement are taken. -/
theorem step_access {s : State} {a : Access} {ts : List Turn} {hs : List HostStmt}
    (hturns : s.env.turns = .host :: ts) (hhost : s.env.host = .access a :: hs) :
    step s = performAccess exec a { s with env := { s.env with turns := ts, host := hs } } := by
  rw [step_host hturns]
  exact hostTurn_access (s := { s with env := { s.env with turns := ts } }) hhost

/-- An aligned access of four bytes in the window names its offset. -/
theorem windowOffset_word (base : Nat) {offset : Nat} (hle : offset ≤ 0x3F) (halign : offset % 4 = 0) :
    windowOffset base (base + offset) 4 = .ok offset := by
  unfold windowOffset
  rw [if_neg (by omega), if_neg (by omega), Nat.add_sub_cancel_left]

/-- What a register reads as does not depend on the host and the environment. -/
theorem regWord_withEnv (s : State) (e : Env) (r : Reg) : regWord { s with env := e } r = regWord s r := by
  cases r <;> rfl

theorem readOffset_withEnv (s : State) (e : Env) (offset : Nat) :
    readOffset { s with env := e } offset = readOffset s offset := by
  simp only [readOffset, regWord_withEnv]

/-- A read in the window returns its word to the host and does nothing else (R47). -/
theorem step_read {s : State} {offset : Nat} {ts : List Turn} {hs : List HostStmt}
    (hle : offset ≤ 0x3F) (halign : offset % 4 = 0) (hturns : s.env.turns = .host :: ts)
    (hhost : s.env.host = .access (.read (s.params.base + offset) 4) :: hs) :
    step s = .next
      { s with env := { s.env with turns := ts, host := hs, rdata := readOffset s offset } } := by
  rw [step_access hturns hhost]
  simp only [performAccess, windowOffset_word _ hle halign, readOffset_withEnv, returnRead]

/-- A write in the window is taken at its offset. -/
theorem step_write {s : State} {offset : Nat} {w : Word} {ts : List Turn} {hs : List HostStmt}
    (hle : offset ≤ 0x3F) (halign : offset % 4 = 0) (hturns : s.env.turns = .host :: ts)
    (hhost : s.env.host = .access (.write (s.params.base + offset) 4 w) :: hs) :
    step s = writeOffset exec offset w { s with env := { s.env with turns := ts, host := hs } } := by
  rw [step_access hturns hhost]
  simp only [performAccess, windowOffset_word _ hle halign]

/-- Settles O15: a read returns the word of its offset, which is made of the block's fields only. -/
theorem readsHaveNoSideEffects : Obligations.ReadsHaveNoSideEffects := by
  unfold Obligations.ReadsHaveNoSideEffects
  intro s k ts hs hturns hhost
  exact ⟨step_read (by omega) (by omega) hturns hhost, fun e => readOffset_withEnv s e _⟩

theorem regAt_reserved (k : Fin 6) : regAt (0x28 + 4 * k.val) = none := by
  revert k
  decide

/-- Settles O18: no register stands at a reserved offset. -/
theorem reservedOffsetsReadZeroAndIgnoreWrites : Obligations.ReservedOffsetsReadZeroAndIgnoreWrites := by
  unfold Obligations.ReservedOffsetsReadZeroAndIgnoreWrites
  intro s k w ts hs hturns
  rw [Nat.add_assoc]
  refine ⟨fun hhost => ?_, fun hhost => ?_⟩
  · rw [step_read (by omega) (by omega) hturns hhost]
    simp only [readOffset, regAt_reserved]
    rfl
  · rw [step_write (by omega) (by omega) hturns hhost]
    simp only [writeOffset, regAt_reserved]

/-- A read or write whose address or width the window does not admit stops with the window's fault. -/
theorem step_badAccess {s : State} {addr width : Nat} {w : Word} {f : Fault} {ts : List Turn}
    {hs : List HostStmt} (hturns : s.env.turns = .host :: ts)
    (hhost : s.env.host = .access (.read addr width) :: hs ∨
      s.env.host = .access (.write addr width w) :: hs)
    (hbad : windowOffset s.params.base addr width = .error f) : step s = .fault f := by
  rcases hhost with hread | hwrite
  · rw [step_access hturns hread]
    simp only [performAccess, hbad]
  · rw [step_access hturns hwrite]
    simp only [performAccess, hbad]

/-- Settles O19: the window decides first whether it decodes the address, then whether it admits the
access. -/
theorem badAccessesFault : Obligations.BadAccessesFault := by
  unfold Obligations.BadAccessesFault
  intro s addr width w ts hs hturns hhost
  refine ⟨fun hlow hhigh hbad => step_badAccess hturns hhost ?_,
    fun hout => step_badAccess hturns hhost ?_⟩
  · rw [windowOffset, if_neg (by omega), if_pos hbad]
  · rw [windowOffset, if_pos hout]

/-- One `POLL` read of a register: the word goes to the host, and the statement is taken off at the awaited
value (R78). -/
theorem performPoll_reg {r : Reg} {mask val : Word} {s : State} {h : HostStmt} {hs : List HostStmt}
    (hhost : s.env.host = h :: hs) :
    performPoll (s.params.base + regOffset r) mask val s = .next
      { s with
        env :=
          { s.env with
            host := if regWord s r &&& mask = val then hs else s.env.host
            rdata := regWord s r } } := by
  simp only [performPoll, windowOffset_reg, readOffset_regOffset, takeStatement_cons hhost, returnRead]
  by_cases hval : regWord s r &&& mask = val
  · simp only [if_pos hval]
  · simp only [if_neg hval]

/-- Settles O21: a `POLL` turn is one read, after which the statement is taken off or stays. -/
theorem pollReadsUntilTheValue : Obligations.PollReadsUntilTheValue := by
  unfold Obligations.PollReadsUntilTheValue
  intro s r mask val ts hs hturns hhost
  have hturn := hostTurn_poll (run := exec) (s := { s with env := { s.env with turns := ts } }) hhost
  rw [step_host hturns, hturn, performPoll_reg (s := { s with env := { s.env with turns := ts } }) hhost,
    regWord_withEnv]

end Sys2Proof.Machine

/-! SUPPORT. The command word by its three fields, and the encoder as the decoder's inverse. -/

namespace Sys2Proof

/-! ### Words and their fields (R61) -/

/-- The field `OP` of a command's word (R62). -/
def opcode : Instr → BitVec 4
  | .sendBit _ => 0x1
  | .recvBit => 0x2
  | .adcRead _ => 0x3
  | .dhtRead => 0x4
  | .keypadRun => 0x5
  | .tiltRun => 0x6
  | .slideRun _ _ => 0x7

/-- The field `ARG` of a command's word: its operands, below the unused bits (R63). -/
def argument : Instr → BitVec 4
  | .sendBit v => 0#3 ++ v
  | .adcRead ch => 0#2 ++ ch
  | .slideRun i0 i1 => 0#2 ++ (i1 ++ i0)
  | _ => 0

/-- A word is the concatenation of `RSVD`, `ARG` and `OP`. -/
theorem fields_append (w : Word) : rsvdField w ++ (argField w ++ opField w) = w := by
  calc rsvdField w ++ (argField w ++ opField w)
      = w.extractLsb' 0 32 := by
        rw [rsvdField, argField, opField,
          BitVec.extractLsb'_append_extractLsb'_eq_extractLsb' (start₂ := 4) rfl,
          BitVec.extractLsb'_append_extractLsb'_eq_extractLsb' (start₂ := 8) rfl]
    _ = w := BitVec.extractLsb'_eq_self

/-- The encoder writes opcode and argument, and zeros above them (R77). -/
theorem encode_eq_fields (i : Instr) : encode i = 0#24 ++ (argument i ++ opcode i) := by
  cases i with
  | sendBit v => revert v; decide
  | adcRead ch => revert ch; decide
  | slideRun i0 i1 => revert i0 i1; decide
  | recvBit | dhtRead | keypadRun | tiltRun => rfl

theorem withoutArgument_eq_ok {n : Nat} {unused : BitVec n} {i j : Instr}
    (h : withoutArgument unused i = .ok j) : unused = 0 ∧ i = j := by
  unfold withoutArgument at h
  split at h
  · exact ⟨‹_›, Except.ok.inj h⟩
  · cases h

/-- The bits of `ARG` that a command with a one-bit operand does not read, and the operand (R63). -/
theorem argField_eq_append_bit (w : Word) : argField w = w.extractLsb' 5 3 ++ w.extractLsb' 4 1 :=
  (BitVec.extractLsb'_append_extractLsb'_eq_extractLsb' (start₁ := 4) (len₁ := 1) (start₂ := 5) rfl).symm

/-- The bits of `ARG` that a command with a two-bit operand does not read, and the operand (R63). -/
theorem argField_eq_append_pair (w : Word) : argField w = w.extractLsb' 6 2 ++ w.extractLsb' 4 2 :=
  (BitVec.extractLsb'_append_extractLsb'_eq_extractLsb' (start₁ := 4) (len₁ := 2) (start₂ := 6) rfl).symm

/-- The two operands of SLIDE_RUN in `ARG` (R63). -/
theorem pair_eq_append_bits (w : Word) : w.extractLsb' 4 2 = w.extractLsb' 5 1 ++ w.extractLsb' 4 1 :=
  (BitVec.extractLsb'_append_extractLsb'_eq_extractLsb' (start₁ := 4) (len₁ := 1) (start₂ := 5) rfl).symm

/-! ### Decoder and encoder (R62 to R64, R77) -/

/-- Each branch of the decoder fixes all three fields of the word. -/
theorem fields_of_decode {w : Word} {i : Instr} (h : decode w = .ok i) :
    rsvdField w = 0 ∧ argField w = argument i ∧ opField w = opcode i := by
  unfold decode at h
  split_ifs at h with hrsvd hsend hrecv hadc hdht hkeypad htilt hslide
  all_goals
    obtain ⟨hunused, rfl⟩ := withoutArgument_eq_ok h
    refine ⟨not_not.mp hrsvd, ?_, ‹_›⟩
  · rw [argField_eq_append_bit, hunused]; rfl
  · exact hunused
  · rw [argField_eq_append_pair, hunused]; rfl
  · exact hunused
  · exact hunused
  · exact hunused
  · rw [argField_eq_append_pair, pair_eq_append_bits, hunused]; rfl

theorem decode_encode (i : Instr) : decode (encode i) = .ok i := by
  cases i with
  | sendBit v => revert v; decide
  | adcRead ch => revert ch; decide
  | slideRun i0 i1 => revert i0 i1; decide
  | recvBit | dhtRead | keypadRun | tiltRun => rfl

theorem decode_eq_ok_iff {w : Word} {i : Instr} : decode w = .ok i ↔ w = encode i := by
  refine ⟨fun h => ?_, fun h => h ▸ decode_encode i⟩
  obtain ⟨hrsvd, harg, hop⟩ := fields_of_decode h
  rw [← fields_append w, hrsvd, harg, hop, encode_eq_fields]
  rfl

/-- Settles O1: the fields a decoded word must have are those its encoding writes. -/
theorem decodesExactlyItsEncoding : Obligations.DecodesExactlyItsEncoding := by
  unfold Obligations.DecodesExactlyItsEncoding
  exact fun _ _ => decode_eq_ok_iff

/-! ### Legal words (R64, R68) -/

theorem legal_encode (i : Instr) : legal (encode i) = true := by
  cases i with
  | sendBit v => exact Laws.LegalEncoding.sendBit v
  | recvBit => exact Laws.LegalEncoding.recvBit
  | adcRead ch => exact Laws.LegalEncoding.adcRead ch
  | dhtRead => exact Laws.LegalEncoding.dhtRead
  | keypadRun => exact Laws.LegalEncoding.keypadRun
  | tiltRun => exact Laws.LegalEncoding.tiltRun
  | slideRun i0 i1 => exact Laws.LegalEncoding.slideRun i0 i1

/-- The three disjuncts of R64, on the fields. -/
theorem legal_iff_fields {w : Word} :
    legal w = true ↔ rsvdField w = 0#24 ∧
      ((opField w = 0x1#4 ∧ w.extractLsb' 5 3 = 0#3) ∨
        ((opField w = 0x2#4 ∨ opField w = 0x4#4 ∨ opField w = 0x5#4 ∨ opField w = 0x6#4) ∧
          argField w = 0#4) ∨
        (opField w = 0x3#4 ∨ opField w = 0x7#4) ∧ w.extractLsb' 6 2 = 0#2) := by
  simp only [legal, Bool.and_eq_true, Bool.or_eq_true, beq_iff_eq, or_assoc]
  rfl

/-- A word is legal exactly when it decodes to a command (R68). -/
theorem legal_iff_decodes {w : Word} : legal w = true ↔ ∃ i, decode w = .ok i := by
  constructor
  · intro h
    obtain ⟨hrsvd, hcommand⟩ := legal_iff_fields.mp h
    rcases hcommand with ⟨hop, hunused⟩ | ⟨hop | hop | hop | hop, hunused⟩ |
      ⟨hop | hop, hunused⟩ <;>
      simp [decode, withoutArgument, hrsvd, hop, hunused]
  · rintro ⟨i, hi⟩
    rw [decode_eq_ok_iff.mp hi]
    exact legal_encode i

/-! ### The opcode table's match and mask (R68) -/

/-- The operand field of a word, put back in its place, is what the field's mask keeps of the word. -/
theorem operand_in_place (n : Nat) (w : Word) :
    (w.extractLsb' 4 n).setWidth 32 <<< 4 = w &&& (BitVec.allOnes n).setWidth 32 <<< 4 := by
  ext i hi
  by_cases h4 : i < 4
  · simp [h4]
  · have h : 4 + (i - 4) = i := by omega
    simp [h4, h, BitVec.getLsbD_eq_getElem hi, Bool.and_comm]

/-- The words with the bits `c` and any operand of `n` bits above `OP` are those that the row's mask,
which leaves the operand out, takes to `c`. -/
theorem exists_operand_iff {n : Nat} {c mask w : Word}
    (hmask : mask = ~~~((BitVec.allOnes n).setWidth 32 <<< 4)) (hc : c &&& mask = c) :
    (∃ x : BitVec n, w = c ||| x.setWidth 32 <<< 4) ↔ w &&& mask = c := by
  constructor
  · rintro ⟨x, rfl⟩
    have hx : x.setWidth 32 <<< 4 &&& mask = 0#32 := by
      rw [hmask]
      ext i hi
      simpa using fun h4 hbit => ⟨h4, BitVec.lt_of_getLsbD hbit⟩
    rw [BitVec.and_or_distrib_right, hc, hx, BitVec.or_zero]
  · intro h
    refine ⟨w.extractLsb' 4 n, ?_⟩
    rw [operand_in_place, ← h, ← BitVec.and_or_distrib_left, hmask, BitVec.not_or_self,
      BitVec.and_allOnes]

/-- SLIDE_RUN has one operand field of two bits, like ADC_READ (R63). -/
theorem encode_slideRun (i0 i1 : BitVec 1) :
    encode (.slideRun i0 i1) = 0x07#32 ||| (i1 ++ i0).setWidth 32 <<< 4 := by
  revert i0 i1; decide

theorem exists_encode_slideRun_iff {w : Word} :
    (∃ i0 i1, w = encode (.slideRun i0 i1)) ↔
      ∃ x : BitVec 2, w = 0x07#32 ||| x.setWidth 32 <<< 4 := by
  simp only [encode_slideRun]
  constructor
  · rintro ⟨i0, i1, h⟩
    exact ⟨i1 ++ i0, h⟩
  · rintro ⟨x, h⟩
    refine ⟨x.extractLsb' 0 1, x.extractLsb' 1 1, ?_⟩
    rwa [BitVec.extractLsb'_append_extractLsb'_eq_extractLsb' (start₂ := 1) rfl,
      BitVec.extractLsb'_eq_self]

/-- A command without an operand is the one word that its full mask leaves. -/
theorem decode_eq_ok_iff_and_allOnes {w : Word} {i : Instr} :
    decode w = .ok i ↔ w &&& 0xFFFFFFFF#32 = encode i := by
  rw [decode_eq_ok_iff, show w &&& 0xFFFFFFFF#32 = w from BitVec.and_allOnes]

/-- Settles O2: a word decodes exactly when it is legal, and each row's mask leaves out its operand
field. -/
theorem everyWordIsOneCommandOrIllegal : Obligations.EveryWordIsOneCommandOrIllegal := by
  unfold Obligations.EveryWordIsOneCommandOrIllegal
  refine ⟨fun w => ?_, fun w => ⟨?_, decode_eq_ok_iff_and_allOnes, ?_, decode_eq_ok_iff_and_allOnes,
    decode_eq_ok_iff_and_allOnes, decode_eq_ok_iff_and_allOnes, ?_⟩⟩
  · split
    · obtain ⟨i, hi⟩ := legal_iff_decodes.mp ‹_›
      rw [hi]
      exact ⟨⟨i, rfl⟩, nofun⟩
    · have hnone := mt legal_iff_decodes.mpr ‹_›
      cases h : decode w with
      | ok i => exact absurd ⟨i, h⟩ hnone
      | error r => exact ⟨⟨r, rfl⟩, nofun⟩
  · simp only [decode_eq_ok_iff]
    exact exists_operand_iff rfl rfl
  · simp only [decode_eq_ok_iff]
    exact exists_operand_iff rfl rfl
  · simp only [decode_eq_ok_iff]
    exact exists_encode_slideRun_iff.trans (exists_operand_iff rfl rfl)

/-! ### The fourteen legal words (R64) -/

/-- The legal words are the encodings of the commands. -/
theorem legal_iff_encodes {w : Word} : legal w = true ↔ ∃ i, w = encode i := by
  simp only [legal_iff_decodes, decode_eq_ok_iff]

theorem encode_mem_legalWords (i : Instr) :
    encode i ∈ [0x01#32, 0x11#32, 0x02#32, 0x03#32, 0x13#32, 0x23#32, 0x33#32, 0x04#32, 0x05#32,
      0x06#32, 0x07#32, 0x17#32, 0x27#32, 0x37#32] := by
  cases i with
  | sendBit v => revert v; decide
  | adcRead ch => revert ch; decide
  | slideRun i0 i1 => revert i0 i1; decide
  | recvBit | dhtRead | keypadRun | tiltRun => decide

/-- A field of a word as a number. -/
theorem extractLsb'_eq_iff {n : Nat} (w : Word) (k : Nat) (x : BitVec n) :
    w.extractLsb' k n = x ↔ w.toNat / 2 ^ k % 2 ^ n = x.toNat := by
  rw [← BitVec.toNat_inj, BitVec.extractLsb'_toNat, Nat.shiftRight_eq_div_pow]

/-- Settles O3: the fields of the formula as numbers, and the encodings of the seven commands. -/
theorem legalWordsAreTheFourteen : Obligations.LegalWordsAreTheFourteen := by
  unfold Obligations.LegalWordsAreTheFourteen
  intro w
  constructor
  · rw [legal_iff_fields, rsvdField, opField, argField]
    simp only [extractLsb'_eq_iff, BitVec.toNat_ofNat]
    have hw := w.isLt
    omega
  · constructor
    · intro h
      obtain ⟨i, rfl⟩ := legal_iff_encodes.mp h
      exact encode_mem_legalWords i
    · intro h
      simp only [List.mem_cons, List.not_mem_nil, or_false] at h
      rcases h with rfl | rfl | rfl | rfl | rfl | rfl | rfl | rfl | rfl | rfl | rfl | rfl | rfl | rfl <;>
        rfl

/-- Settles O4: each word is decoded. -/
theorem writtenOutWordsDecode : Obligations.WrittenOutWordsDecode := by
  unfold Obligations.WrittenOutWordsDecode
  decide

/-! ### The assembler (R77) -/

/-- An operand out of range is an assembly error. -/
theorem word_of_not_wellFormed {a : Asm} (h : a.WellFormed = false) : a.word = none := by
  simp [Asm.word, Asm.toInstr, h]

/-- Settles O5: an operand in range is one of a few numbers, and any other is an assembly error. -/
theorem assemblerFollowsItsTable : Obligations.AssemblerFollowsItsTable := by
  unfold Obligations.AssemblerFollowsItsTable
  refine ⟨fun v => ?_, rfl, fun ch => ?_, rfl, rfl, rfl, fun i0 i1 => ?_⟩
  · split
    · interval_cases v <;> rfl
    · exact word_of_not_wellFormed (decide_eq_false ‹_›)
  · split
    · interval_cases ch <;> rfl
    · exact word_of_not_wellFormed (decide_eq_false ‹_›)
  · split
    · obtain ⟨h0, h1⟩ := ‹i0 ≤ 1 ∧ i1 ≤ 1›
      interval_cases i0 <;> interval_cases i1 <;> rfl
    · refine word_of_not_wellFormed ?_
      rw [Asm.WellFormed, ← Bool.decide_and]
      exact decide_eq_false ‹_›

end Sys2Proof

/-! SUPPORT. The host's pseudo-instructions, the issue and acceptance of a command, and the block right
after a completion. -/

namespace Sys2Proof.Machine

/-- Settles O37: each header bit is one bit of the header word. -/
theorem adcHeaderBits : Obligations.AdcHeaderBits := by
  unfold Obligations.AdcHeaderBits
  decide

/-! ### Pseudo-instructions (R79) -/

/-- The bit v[i] of a host value, by arithmetic. -/
theorem hostBit_eq_ite (v i : Nat) : hostBit v i = if v / 2 ^ i % 2 = 1 then 1 else 0 := by
  rw [bit_eq_ite, hostBit, Nat.shiftRight_eq_div_pow, ← BitVec.toNat_inj, BitVec.toNat_ofNat]
  rfl

/-- `SHIFT_OUT` sends the bits in order of their index from the top (R79). -/
theorem shiftOut_eq_flatMap (base v n : Nat) :
    shiftOut base v n = (List.range n).flatMap fun j =>
      [hostW base .cmd (encode (.sendBit (hostBit v (n - 1 - j)))), hostPoll base .status 0x1 0x0] := by
  induction n with
  | zero => rfl
  | succ n ih =>
    rw [shiftOut, ih, List.range_succ_eq_map, List.flatMap_cons, List.flatMap_map]
    simp [hostCommand, Nat.sub_sub, Nat.add_comm]

theorem shiftInBits_eq_flatMap (base n : Nat) :
    shiftInBits base n = (List.range n).flatMap fun _ =>
      [hostW base .cmd (encode .recvBit), hostPoll base .status 0x1 0x0, hostR base .rxbit, .shiftX] := by
  induction n with
  | zero => rfl
  | succ n ih =>
    rw [shiftInBits, ih, List.range_succ_eq_map, List.flatMap_cons, List.flatMap_map]
    rfl

/-- `(x << 1) | (t & 1)` appends the lowest bit of `t`. -/
theorem shiftInStep_eq (x : Nat) (t : Word) : shiftInStep x t = 2 * x + t.toNat % 2 := by
  have hbit : (t &&& 1).toNat = t.toNat % 2 := by
    rw [BitVec.toNat_and]
    exact Nat.and_one_is_mod _
  rw [shiftInStep, hbit, ← Nat.shiftLeft_add_eq_or_of_lt (Nat.mod_lt _ (by decide)), Nat.shiftLeft_eq]
  omega

/-- Settles O6: both expansions by induction on the number of bits, and the host's two assignments. -/
theorem shiftOutSendsBitsMsbFirst : Obligations.ShiftOutSendsBitsMsbFirst := by
  unfold Obligations.ShiftOutSendsBitsMsbFirst
  refine ⟨fun base n v => ?_, fun base n => ?_, fun s ts hs hturns =>
    ⟨fun hhost => ?_, fun hhost => ?_⟩⟩
  · simp only [expand, shiftOut_eq_flatMap, hostBit_eq_ite]
  · simp only [expand, shiftInBits_eq_flatMap]
  · rw [step_host hturns]
    exact hostTurn_clearX (s := { s with env := { s.env with turns := ts } }) hhost
  · rw [step_host hturns, ← shiftInStep_eq]
    exact hostTurn_shiftX (s := { s with env := { s.env with turns := ts } }) hhost

/-! ### Issue and acceptance (R66, R67) -/

/-- A running command turns a `CMD` write away (R66). -/
theorem issue_busy {run : Instr → State → Result} {w : Word} {s : State}
    (hbusy : s.regs.status.busy = 1) : issue run w s = .next (rejectBusy s) :=
  if_pos hbusy

/-- An idle block stores an illegal word and reports it (R65, R66). -/
theorem issue_illegal {run : Instr → State → Result} {w : Word} {s : State}
    (hbusy : s.regs.status.busy ≠ 1) (hw : legal w = false) :
    issue run w s = .next (illegalCommand { s with regs := { s.regs with cmd := w } }) := by
  cases hdecode : decode w with
  | ok i => exact absurd (legal_iff_decodes.mpr ⟨i, hdecode⟩) (by simp [hw])
  | error r => simp only [issue, if_neg hbusy, hdecode]

/-- `CMD` keeps the word through the acceptance clears. -/
theorem acceptanceClears_storeCmd (i : Instr) (w : Word) (r : Regs) :
    acceptanceClears i { r with cmd := w } = { acceptanceClears i r with cmd := w } := by
  cases i <;> rfl

@[simp] theorem acceptanceClears_cmdRej (i : Instr) (r : Regs) :
    (acceptanceClears i r).status.cmdRej = r.status.cmdRej := by
  cases i <;> rfl

theorem bit_eq_zero_of_ne_one {b : Bit} (h : b ≠ 1) : b = 0 := by
  revert b; decide

/-- A write of a legal word to `CMD` of an idle block is the acceptance of its command, with the word
stored (R66). -/
theorem step_accept {s : State} {w : Word} {i : Instr} {ts : List Turn} {hs : List HostStmt}
    (hturns : s.env.turns = .host :: ts) (hhost : s.env.host = hostW s.params.base .cmd w :: hs)
    (hbusy : s.regs.status.busy = 0) (hseq : s.seq = .idle) (hw : decode w = .ok i) :
    step s = .next (accept i
      { s with
        env := { s.env with turns := ts, host := hs }
        regs := { s.regs with cmd := w } }) := by
  rw [step_hostW hturns hhost, writeOffset_cmd]
  rw [issue_legal (by exact hbusy) hw, exec_accept (by exact hseq)]

/-- Settles O7: a write to `CMD` is an issue of the word, in its three cases. -/
theorem cmdWriteIssuesCommand : Obligations.CmdWriteIssuesCommand := by
  unfold Obligations.CmdWriteIssuesCommand
  intro s w ts hs hinv hturns hhost
  refine ⟨fun hbusy => ?_, fun hbusy hw => ?_, fun hbusy i hw => ?_⟩
  · rw [step_hostW hturns hhost, writeOffset_cmd]
    exact issue_busy hbusy
  · rw [step_hostW hturns hhost, writeOffset_cmd]
    exact issue_illegal hbusy hw
  · refine ⟨_, step_accept hturns hhost (bit_eq_zero_of_ne_one hbusy) (hinv.idle_of_not_busy hbusy) hw,
      ?_, rfl, rfl, rfl, rfl⟩
    rw [accept_regs, acceptanceClears_storeCmd]

/-- Settles O8: an idle block accepts, and acceptance is written out for each command. -/
theorem acceptanceClearsPerCommand : Obligations.AcceptanceClearsPerCommand := by
  unfold Obligations.AcceptanceClearsPerCommand
  intro s hidle
  exact ⟨fun _ => exec_accept hidle, exec_accept hidle, fun _ => exec_accept hidle, exec_accept hidle,
    exec_accept hidle, exec_accept hidle, fun _ _ => exec_accept hidle⟩

/-! ### After a completion (R129, R130, R153) -/

/-- A micro-action that leaves the block idle has cleared `BUSY` and kept the flag `CMD_REJ`, which was
`rej` before it. -/
def ClosesCleanly (rej : Bit) (t : State) : Prop :=
  t.seq = .idle → t.regs.status.busy = 0 ∧ t.regs.status.cmdRej = rej

theorem ClosesCleanly.of_running {rej : Bit} {t : State} (h : t.seq ≠ .idle) : ClosesCleanly rej t :=
  fun hidle => absurd hidle h

theorem ClosesCleanly.complete {e : ErrCode} {f : Regs → Regs} (hf : ResultWrite e f) (s : State) :
    ClosesCleanly s.regs.status.cmdRej (complete e f s) := by
  intro _
  cases hf with
  | nothing e => cases e <;> exact ⟨rfl, rfl⟩
  | rxbit | adcData | dhtData => exact ⟨rfl, rfl⟩

theorem ClosesCleanly.raiseErr (e : ErrCode) (s : State) :
    ClosesCleanly s.regs.status.cmdRej (raiseErr e s) :=
  .complete (.nothing e) s

theorem ClosesCleanly.acquire (l : Line) (d : Dir) {next : Seq} (hnext : next ≠ .idle) (s : State) :
    ClosesCleanly s.regs.status.cmdRej (acquire l d next s) := by
  rw [← drawGrant_regs s]
  rcases acquire_cases l d next s with h | h <;> rw [h]
  · exact .of_running hnext
  · exact .raiseErr _ _

theorem ClosesCleanly.pathMicro (rej : Bit) (ch : BitVec 2) (path : RecvPos → AdcPos)
    (got : Bit → AdcPos) (p : RecvPos) (s : State) : ClosesCleanly rej (pathMicro ch path got p s) := by
  cases p <;> exact .of_running nofun

theorem ClosesCleanly.pollMicro (site : WaitSite) (i : Nat) (s : State) :
    ClosesCleanly s.regs.status.cmdRej (pollMicro site i s) := by
  rcases pollMicro_cases site i s with ⟨h, -⟩ | ⟨h, -⟩ <;> rw [h]
  · exact .of_running nofun
  · exact .raiseErr _ s

theorem ClosesCleanly.dhtFinish (s : State) :
    ClosesCleanly s.regs.status.cmdRej (dhtFinish s) := by
  rcases dhtFinish_cases s with ⟨h, hvalid⟩ | ⟨h, -⟩ <;> rw [h]
  · exact .complete (.dhtData _ hvalid) s
  · exact .raiseErr _ s

theorem sendBitMicro_closesCleanly (v : Bit) (p : SendBitPos) (s : State) :
    ClosesCleanly s.regs.status.cmdRej (sendBitMicro v p s) := by
  cases p with
  | acquireClock | acquireData => exact .acquire _ _ (by nofun) s
  | send p => cases p <;> exact .of_running nofun
  | finish => exact .complete (.nothing _) s

theorem recvBitMicro_closesCleanly (p : RecvBitPos) (s : State) :
    ClosesCleanly s.regs.status.cmdRej (recvBitMicro p s) := by
  cases p with
  | acquireClock | acquireData => exact .acquire _ _ (by nofun) s
  | recv p => cases p <;> exact .of_running nofun
  | finish b => exact .complete (.rxbit b) s

theorem adcMicro_closesCleanly (ch : BitVec 2) (p : AdcPos) (s : State) :
    ClosesCleanly s.regs.status.cmdRej (adcMicro ch p s) := by
  cases p with
  | acquireSelect | acquireClock | acquireOut | acquireIn => exact .acquire _ _ (by nofun) s
  | selectLow | holdSelected | holdReleased => exact .of_running nofun
  | header k p => cases p <;> exact .of_running nofun
  | startMsb | sharedGot | msbPath | lsbPath => exact .pathMicro _ _ _ _ _ _
  | msbGot | lsbGot =>
    simp only [adcMicro]
    split
    · exact .pathMicro _ _ _ _ _ _
    · exact .of_running nofun
  | finish =>
    simp only [adcMicro]
    split
    · exact .complete (.adcData ch _) s
    · exact .raiseErr _ s

theorem dhtMicro_closesCleanly (p : DhtPos) (s : State) :
    ClosesCleanly s.regs.status.cmdRej (dhtMicro p s) := by
  cases p with
  | acquireOut | acquireIn => exact .acquire _ _ (by nofun) s
  | driveLow | driveHigh | holdLow | holdHigh => exact .of_running nofun
  | wait site p =>
    rw [dhtMicro]
    rcases waitMicro_cases site p s with ⟨site', i, f, y, n, h⟩ | ⟨i, b, -, h⟩ | ⟨f, y, n, h⟩ <;> rw [h]
    · exact .pollMicro site' i { s with work := _ }
    · exact .of_running nofun
    · exact .dhtFinish { s with work := _ }

theorem keypadMicro_closesCleanly (p : KeypadPos) (s : State) :
    ClosesCleanly s.regs.status.cmdRej (keypadMicro p s) := by
  cases p with
  | acquireRow | acquireColumn => exact .acquire _ _ (by nofun) s
  | rowHigh | rowHold | firstColumn | endOfPass | scanHold => exact .of_running nofun
  | top =>
    simp only [keypadMicro]
    split
    · exact .complete (.nothing _) s
    · exact .of_running nofun
  | seen =>
    simp only [keypadMicro]
    split <;> exact .of_running nofun

/-- The end of a tracker in the first iteration of WaitEdge (R117, R120). -/
theorem ClosesCleanly.cancelled {s s' : State} {next : EdgeNext} (h : waitEdgeMicro s = (next, s')) :
    ClosesCleanly s.regs.status.cmdRej (Machine.complete .none id s') := by
  have hregs : s'.regs = s.regs := by
    rcases waitEdgeMicro_cases s with ⟨e, -⟩ | ⟨e, -⟩ | ⟨_, e, -⟩ <;> cases e.symm.trans h
    · rfl
    · exact sample_regs .swIn s
    · exact sample_regs .swIn s
  exact hregs ▸ .complete (.nothing _) s'

theorem tiltMicro_closesCleanly (p : TiltPos) (s : State) :
    ClosesCleanly s.regs.status.cmdRej (tiltMicro p s) := by
  cases p with
  | acquireSwitch | acquireInd0 | acquireInd1 => exact .acquire _ _ (by nofun) s
  | firstSample | settleHold | settledSample | report | reportHold => exact .of_running nofun
  | top =>
    simp only [tiltMicro]
    split
    · exact .cancelled ‹_›
    · exact .of_running nofun
    · exact .of_running nofun
  | waitEdge =>
    simp only [tiltMicro]
    split <;> exact .of_running nofun
  | cancelled => exact .complete (.nothing _) s

theorem slideMicro_closesCleanly (i0 i1 : Bit) (p : SlidePos) (s : State) :
    ClosesCleanly s.regs.status.cmdRej (slideMicro i0 i1 p s) := by
  cases p with
  | acquireSwitch | acquireInd0 | acquireInd1 => exact .acquire _ _ (by nofun) s
  | driveStart | firstSample | toggle => exact .of_running nofun
  | top =>
    simp only [slideMicro]
    split
    · exact .cancelled ‹_›
    · exact .of_running nofun
    · exact .of_running nofun
  | waitEdge =>
    simp only [slideMicro]
    split <;> exact .of_running nofun
  | cancelled => exact .complete (.nothing _) s

/-- A micro-action that ends its command clears `BUSY` and keeps `CMD_REJ` (R130). -/
theorem micro_closesCleanly {q : Seq} {i : Instr} (hq : runningCommand q = some i) (s : State) :
    ClosesCleanly s.regs.status.cmdRej (micro q s) := by
  cases q with
  | idle => cases hq
  | sendBit v p => exact sendBitMicro_closesCleanly v p s
  | recvBit p => exact recvBitMicro_closesCleanly p s
  | adcRead ch p => exact adcMicro_closesCleanly ch p s
  | dhtRead p => exact dhtMicro_closesCleanly p s
  | keypadRun p => exact keypadMicro_closesCleanly p s
  | tiltRun p => exact tiltMicro_closesCleanly p s
  | slideRun i0 i1 p => exact slideMicro_closesCleanly i0 i1 p s

/-- Settles O13: a completion leaves `BUSY` 0, so the next legal word is accepted. -/
theorem everyCommandAnswersANextState : Obligations.EveryCommandAnswersANextState := by
  unfold Obligations.EveryCommandAnswersANextState
  refine ⟨exec_answers, fun s t i j w ts hs hrun hexec hidle hturns hhost hw => ?_⟩
  cases (exec_eq_micro hrun).symm.trans hexec
  obtain ⟨hbusy, hrej⟩ := micro_closesCleanly hrun s hidle
  refine ⟨_, step_accept hturns hhost hbusy hidle hw, rfl, ?_, ?_, ?_⟩
  · simp [accept_regs]
  · simp [accept_regs]
  · simpa [accept_regs] using hrej

end Sys2Proof.Machine

/-! SUPPORT. Bytes received bit by bit, and a whole ADC_READ. -/

namespace Sys2Proof.Machine

/-! ### A byte from its bits, the first one the most significant -/

/-- The byte that an MSB-first accumulator holds after the bits have been shifted in (R92, R102). -/
def readout (bits : List Bit) : Byte := bits.foldl shiftIn 0

theorem readout_concat (bits : List Bit) (b : Bit) :
    readout (bits ++ [b]) = shiftIn (readout bits) b :=
  List.foldl_concat shiftIn 0 b bits

theorem readout_singleton (b : Bit) : readout [b] = b.setWidth 8 := by
  revert b; decide

/-- A placed bit moves up when another is shifted in. -/
theorem shiftIn_placeBit (v : Byte) (b c : Bit) (i : Nat) :
    shiftIn (placeBit v b i) c = placeBit (shiftIn v c) b (i + 1) := by
  simp only [shiftIn, placeBit, BitVec.shiftLeft_or_distrib, BitVec.shiftLeft_add, BitVec.or_assoc,
    BitVec.or_comm (c.setWidth 8)]

theorem foldl_shiftIn_placeBit (bits : List Bit) (v : Byte) (b : Bit) (i : Nat) :
    bits.foldl shiftIn (placeBit v b i) = placeBit (bits.foldl shiftIn v) b (i + bits.length) := by
  induction bits generalizing v i with
  | nil => rfl
  | cons c bits ih =>
    rw [List.foldl_cons, shiftIn_placeBit, ih, List.foldl_cons, List.length_cons]
    congr 1
    omega

/-- The bit in front of the others is the most significant: an LSB-first accumulator places it there
(R94). -/
theorem readout_cons (b : Bit) (bits : List Bit) :
    readout (b :: bits) = placeBit (readout bits) b bits.length := by
  have hfirst : shiftIn 0 b = placeBit 0 b 0 := by revert b; decide
  rw [readout, List.foldl_cons, hfirst, foldl_shiftIn_placeBit, Nat.zero_add]
  rfl

/-- Bit `i` of a byte is the `i`-th of its bits from the last. -/
theorem readout_reverse_getLsbD {bits : List Bit} (h8 : bits.length ≤ 8) {i : Nat}
    (hi : i < bits.length) : (readout bits.reverse).getLsbD i = bits[i].getLsbD 0 := by
  induction bits generalizing i with
  | nil => cases hi
  | cons b bits ih =>
    rw [List.length_cons] at h8 hi
    rw [List.reverse_cons, readout_concat]
    cases i with
    | zero => exact shiftIn_getLsbD_zero _ b
    | succ i =>
      rw [shiftIn_getLsbD_succ _ _ (by omega)]
      exact ih (by omega) (by omega)

/-- Eight bits are determined by their byte. -/
theorem readout_injective {bits bits' : List Bit} (h : bits.length = 8) (h' : bits'.length = 8)
    (heq : readout bits = readout bits') : bits = bits' := by
  rw [← List.reverse_inj]
  refine List.ext_getElem (by simp [h, h']) fun i hi hi' => ?_
  have hbit := readout_reverse_getLsbD (bits := bits.reverse) (by simp [h]) hi
  have hbit' := readout_reverse_getLsbD (bits := bits'.reverse) (by simp [h']) hi'
  rw [List.reverse_reverse] at hbit hbit'
  refine BitVec.eq_of_getLsbD_eq fun j hj => ?_
  obtain rfl : j = 0 := by omega
  rw [← hbit, ← hbit', heq]

/-- Shifting a bit in appends it, as far as eight bits go. -/
theorem shiftIn_setWidth {m : Nat} (x : BitVec m) (b : Bit) :
    shiftIn (x.setWidth 8) b = (x ++ b).setWidth 8 := by
  refine BitVec.eq_of_getLsbD_eq fun i hi => ?_
  cases i with
  | zero =>
    rw [shiftIn_getLsbD_zero]
    simp [BitVec.getElem_append]
  | succ i =>
    have hi' : i < 7 := by omega
    have hi8 : i < 8 := by omega
    rw [shiftIn_getLsbD_succ _ _ hi']
    simp [BitVec.getLsbD_append, hi, hi8]

theorem readout_eight (p1 p2 p3 p4 p5 p6 p7 p8 : Bit) :
    readout [p1, p2, p3, p4, p5, p6, p7, p8] = p1 ++ p2 ++ p3 ++ p4 ++ p5 ++ p6 ++ p7 ++ p8 := by
  calc readout [p1, p2, p3, p4, p5, p6, p7, p8]
      = shiftIn (shiftIn (shiftIn (shiftIn (shiftIn (shiftIn (shiftIn (p1.setWidth 8) p2) p3) p4) p5) p6)
          p7) p8 := by rw [← readout_singleton]; rfl
    _ = (p1 ++ p2 ++ p3 ++ p4 ++ p5 ++ p6 ++ p7 ++ p8).setWidth 8 := by
      simp only [shiftIn_setWidth]
    _ = p1 ++ p2 ++ p3 ++ p4 ++ p5 ++ p6 ++ p7 ++ p8 := BitVec.setWidth_eq _

/-! ### Runs of the primitives within ADC_READ (R81, R82) -/

/-- One micro-action of a run, by its position. -/
theorem execN_micro {k : Nat} {i : Instr} {s : State} {q : Seq} (hq : s.seq = q)
    (h : runningCommand q = some i) : execN (k + 1) i s = execN k i (micro q s) :=
  execN_succ (exec_at hq h)

/-- A whole SendBit of the header: the bit on `SDO` and one clock period (R91). -/
theorem execN_headerBit {s : State} {ch : BitVec 2} {k : Fin 5}
    (hs : s.seq = .adcRead ch (.header k .clockLow)) :
    execN 5 (.adcRead ch) s = .next
      { s with
        ports := { s.ports with sclk := 1, sdo := headerBit ch s.params.adcDcBit k }
        held := s.held + s.params.tHold + s.params.tHold
        seq := .adcRead ch (afterHeader k) } := by
  refine (execN_micro hs rfl).trans ?_
  refine (execN_micro rfl rfl).trans ?_
  refine (execN_micro rfl rfl).trans ?_
  refine (execN_micro rfl rfl).trans ?_
  exact execN_micro rfl rfl

/-- A whole RecvBit of one of the two paths, entered with the working registers `w`: one sample and one
clock period. -/
theorem execN_pathBit {s : State} {ch : BitVec 2} {path : RecvPos → AdcPos} {got : Bit → AdcPos}
    {w : Work} {b : Bit} {ls : List Bit}
    (hstart : exec (.adcRead ch) s = .next (pathMicro ch path got .clockLow { s with work := w }))
    (hpath : ∀ p s, adcMicro ch (path p) s = pathMicro ch path got p s)
    (hclock : s.ports.sclk = 1) (hls : s.env.levels = b :: ls) :
    execN 5 (.adcRead ch) s = .next
      { s with
        work := w
        env := { s.env with levels := ls }
        held := s.held + 2 * s.params.tHold
        seq := .adcRead ch (got b) } := by
  have hexec (p : RecvPos) (t : State) (ht : t.seq = .adcRead ch (path p)) :
      exec (.adcRead ch) t = .next (pathMicro ch path got p t) :=
    (exec_at ht rfl).trans (congrArg _ (hpath p t))
  have hsample (t : State) (ht : t.env.levels = b :: ls) : pathMicro ch path got .sample t =
      goto (.adcRead ch (path (.clockHigh b))) { t with env := { t.env with levels := ls } } := by
    simp only [pathMicro, recvMicro, sample_cons ht]
  have hports : { s.ports with sclk := 1 } = s.ports := by rw [← hclock]
  rw [← hports, Nat.two_mul, ← Nat.add_assoc]
  refine (execN_succ hstart).trans ?_
  refine (execN_succ (hexec .holdLow _ rfl)).trans ?_
  refine (execN_succ ((hexec .sample _ rfl).trans (congrArg _ (hsample _ (by exact hls))))).trans ?_
  refine (execN_succ (hexec (.clockHigh b) _ rfl)).trans ?_
  exact execN_succ (hexec (.holdHigh b) _ rfl)

theorem headerBit_last (ch : BitVec 2) (dc : Bit) : headerBit ch dc 4 = dc := by
  revert ch dc; decide

/-- The five header bits: the last one stays on `SDO` (R69, R91). -/
theorem execN_header {s : State} {ch : BitVec 2} (hs : s.seq = .adcRead ch (.header 0 .clockLow)) :
    execN 25 (.adcRead ch) s = .next
      { s with
        ports := { s.ports with sclk := 1, sdo := s.params.adcDcBit }
        held := s.held + 5 * (2 * s.params.tHold)
        seq := .adcRead ch .startMsb } := by
  have hheld : s.held + 5 * (2 * s.params.tHold) = s.held + s.params.tHold + s.params.tHold +
      s.params.tHold + s.params.tHold + s.params.tHold + s.params.tHold + s.params.tHold +
      s.params.tHold + s.params.tHold + s.params.tHold := by omega
  rw [hheld]
  conv => rhs; rw [← headerBit_last ch s.params.adcDcBit]
  refine (execN_add (j := 5) (k := 20) (execN_headerBit hs)).trans ?_
  refine (execN_add (j := 5) (k := 15) (execN_headerBit rfl)).trans ?_
  refine (execN_add (j := 5) (k := 10) (execN_headerBit rfl)).trans ?_
  refine (execN_add (j := 5) (k := 5) (execN_headerBit rfl)).trans ?_
  exact execN_headerBit rfl

/-! ### A whole ADC_READ (R89 to R97) -/

/-- A granted `Acquire`, by its position (R11). -/
theorem exec_granted {s : State} {q : Seq} {i : Instr} {l : Line} {d : Dir} {gs : List Grant}
    (hq : s.seq = q) (hrun : runningCommand q = some i) (hacq : acquiresAt q = some (l, d))
    (hgrants : s.env.grants = .ok :: gs) :
    exec i s =
      .next (goto (onceGranted q) (take l d { s with env := { s.env with grants := gs } })) := by
  rw [exec_at hq hrun, micro_acquire s hacq, acquire_ok hgrants]

/-- Acceptance, the four acquisitions, and chip select (R66, R89, R90). -/
theorem execN_adcSelect {s : State} {ch : BitVec 2} {gs : List Grant} (hs : s.seq = .idle)
    (hgrants : s.env.grants = .ok :: .ok :: .ok :: .ok :: gs) :
    execN 7 (.adcRead ch) s = .next
      { accept (.adcRead ch) s with
        ports := { s.ports with csN := 0 }
        own :=
          { s.own with
            csN := some .output, sclk := some .output, sdo := some .output, sdi := some .input }
        env := { s.env with grants := gs }
        held := 0 + s.params.tCs
        seq := .adcRead ch (.header 0 .clockLow) } := by
  refine (execN_succ (exec_accept hs)).trans ?_
  refine (execN_succ (exec_granted (q := .adcRead ch .acquireSelect) rfl rfl rfl (by exact hgrants))).trans ?_
  refine (execN_succ (exec_granted (q := .adcRead ch .acquireClock) rfl rfl rfl rfl)).trans ?_
  refine (execN_succ (exec_granted (q := .adcRead ch .acquireOut) rfl rfl rfl rfl)).trans ?_
  refine (execN_succ (exec_granted (q := .adcRead ch .acquireIn) rfl rfl rfl rfl)).trans ?_
  refine (execN_micro (q := .adcRead ch .selectLow) rfl rfl).trans ?_
  exact execN_micro (q := .adcRead ch .holdSelected) rfl rfl

/-- The rest of the MSB-first path, from the bit `b` on: the bits that follow are shifted in after it, and
the bare sample reads p8 (R92, R93). -/
theorem execN_msbBits {ch : BitVec 2} {p8 : Bit} {ls : List Bit} (bits : List Bit) {s : State} {k : Fin 7}
    {b : Bit} (hk : k.val + bits.length = 6) (hs : s.seq = .adcRead ch (.msbGot k b))
    (hclock : s.ports.sclk = 1) (hls : s.env.levels = bits ++ p8 :: ls) :
    execN (5 * bits.length + 1) (.adcRead ch) s = .next
      { s with
        work := { s.work with msb := (b :: bits).foldl shiftIn s.work.msb }
        env := { s.env with levels := ls }
        held := s.held + bits.length * (2 * s.params.tHold)
        seq := .adcRead ch (.sharedGot p8) } := by
  induction bits generalizing s k b with
  | nil =>
    obtain rfl : k = 6 := Fin.ext hk
    refine (execN_succ (exec_adcRead_sharedSample hs hls)).trans ?_
    simp [shiftIn_eq_append]
  | cons c bits ih =>
    rw [List.length_cons] at hk
    have hk' : k.val + 1 < 7 := by omega
    have hstart : exec (.adcRead ch) s = .next (pathMicro ch (.msbPath ⟨k.val + 1, hk'⟩)
        (.msbGot ⟨k.val + 1, hk'⟩) .clockLow
        { s with work := { s.work with msb := shiftIn s.work.msb b } }) := by
      rw [exec_at hs rfl]
      simp only [micro, adcMicro, nextIndex_of_lt hk', msbMicro, foldMsb]
    have hheld : s.held + (bits.length + 1) * (2 * s.params.tHold) =
        s.held + 2 * s.params.tHold + bits.length * (2 * s.params.tHold) := by ring
    rw [List.length_cons, Nat.mul_succ, Nat.add_comm _ 5, hheld]
    refine (execN_add (execN_pathBit hstart (fun _ _ => rfl) hclock hls)).trans ?_
    exact ih (by simp only; omega) rfl hclock rfl

/-- The rest of the LSB-first path, from the bit `b` on, with the bits before it in `lsb`: the later a bit
comes, the higher its place (R94); the conversion then ends (R97). -/
theorem execN_lsbBits {ch : BitVec 2} {ls : List Bit} (bits : List Bit) {s : State} {k : Fin 7}
    {b : Bit} {before : List Bit} (hk : k.val + bits.length = 6) (hbefore : before.length = k.val + 1)
    (hs : s.seq = .adcRead ch (.lsbGot k b)) (hlsb : s.work.lsb = readout before)
    (hclock : s.ports.sclk = 1) (hls : s.env.levels = bits ++ ls) :
    execN (5 * bits.length + 1) (.adcRead ch) s = .next
      { s with
        work := { s.work with lsb := readout (bits.reverse ++ b :: before) }
        ports := { s.ports with csN := 1 }
        env := { s.env with levels := ls }
        held := s.held + bits.length * (2 * s.params.tHold)
        seq := .adcRead ch .holdReleased } := by
  have hplace : readout (b :: before) = placeBit s.work.lsb b (k.val + 1) := by
    rw [readout_cons, hbefore, hlsb]
  induction bits generalizing s k b before with
  | nil =>
    obtain rfl : k = 6 := Fin.ext hk
    obtain rfl : s.env.levels = ls := hls
    rw [List.reverse_nil, List.nil_append, hplace, placeBit_eq_or_append, List.length_nil, Nat.zero_mul]
    exact execN_succ (exec_adcRead_endOfConversion hs)
  | cons c bits ih =>
    rw [List.length_cons] at hk
    have hk' : k.val + 1 < 7 := by omega
    have hstart : exec (.adcRead ch) s = .next (pathMicro ch (.lsbPath ⟨k.val + 1, hk'⟩)
        (.lsbGot ⟨k.val + 1, hk'⟩) .clockLow
        { s with work := { s.work with lsb := readout (b :: before) } }) := by
      rw [exec_at hs rfl, hplace]
      simp only [micro, adcMicro, nextIndex_of_lt hk', lsbMicro, foldLsb]
    have hheld : s.held + (bits.length + 1) * (2 * s.params.tHold) =
        s.held + 2 * s.params.tHold + bits.length * (2 * s.params.tHold) := by ring
    rw [List.length_cons, Nat.mul_succ, Nat.add_comm _ 5, hheld, List.reverse_cons,
      List.append_assoc, List.singleton_append]
    refine (execN_add (execN_pathBit hstart (fun _ _ => rfl) hclock hls)).trans ?_
    have hbefore' : (b :: before).length = k.val + 1 + 1 := by rw [List.length_cons, hbefore]
    refine ih (k := ⟨k.val + 1, hk'⟩) (by simp only; omega) hbefore' rfl rfl hclock rfl ?_
    rw [readout_cons, hbefore']

/-- Both readout paths: `msb` takes p1 to p8 and `lsb` p15 down to p8 (R92 to R94). -/
theorem execN_readouts {s : State} {ch : BitVec 2} {p1 p8 p9 : Bit} {ms qs ls : List Bit}
    (hms : ms.length = 6) (hqs : qs.length = 6) (hs : s.seq = .adcRead ch .startMsb)
    (hclock : s.ports.sclk = 1) (hls : s.env.levels = p1 :: (ms ++ p8 :: p9 :: (qs ++ ls))) :
    execN 72 (.adcRead ch) s = .next
      { s with
        work :=
          { s.work with msb := readout (p1 :: ms ++ [p8]), lsb := readout (qs.reverse ++ [p9, p8]) }
        ports := { s.ports with csN := 1 }
        env := { s.env with levels := ls }
        held := s.held + 14 * (2 * s.params.tHold)
        seq := .adcRead ch .holdReleased } := by
  have hheld : s.held + 14 * (2 * s.params.tHold) = s.held + 2 * s.params.tHold +
      ms.length * (2 * s.params.tHold) + 2 * s.params.tHold + qs.length * (2 * s.params.tHold) := by
    rw [hms, hqs]
    omega
  have hsteps : 72 = 5 + ((5 * ms.length + 1) + (5 + (5 * qs.length + 1))) := by rw [hms, hqs]
  have hstartMsb : exec (.adcRead ch) s = .next (pathMicro ch (.msbPath 0) (.msbGot 0) .clockLow
      { s with work := { s.work with msb := 0 } }) := exec_at hs rfl
  have hstartLsb (t : State) (ht : t.seq = .adcRead ch (.sharedGot p8)) :
      exec (.adcRead ch) t = .next (pathMicro ch (.lsbPath 0) (.lsbGot 0) .clockLow
        { t with work := { t.work with msb := shiftIn t.work.msb p8, lsb := readout [p8] } }) := by
    rw [readout_singleton]
    exact exec_at ht rfl
  rw [hheld, hsteps, readout_concat]
  refine (execN_add (execN_pathBit hstartMsb (fun _ _ => rfl) hclock hls)).trans ?_
  refine (execN_add (execN_msbBits ms (k := 0) (by rw [hms]; rfl) rfl (by exact hclock) rfl)).trans ?_
  refine (execN_add (execN_pathBit (hstartLsb _ rfl) (fun _ _ => rfl) (by exact hclock) rfl)).trans ?_
  exact execN_lsbBits qs (k := 0) (before := [p8]) (by rw [hqs]; rfl) rfl rfl rfl (by exact hclock) rfl

/-- A whole ADC_READ up to the validator (R89). -/
theorem execN_adcConversion {s : State} {ch : BitVec 2} {p1 p8 p9 : Bit} {ms qs ls : List Bit}
    {gs : List Grant} (hms : ms.length = 6) (hqs : qs.length = 6) (hs : s.seq = .idle)
    (hgrants : s.env.grants = .ok :: .ok :: .ok :: .ok :: gs)
    (hls : s.env.levels = p1 :: (ms ++ p8 :: p9 :: (qs ++ ls))) :
    execN 105 (.adcRead ch) s = .next
      { accept (.adcRead ch) s with
        work :=
          { s.work with msb := readout (p1 :: ms ++ [p8]), lsb := readout (qs.reverse ++ [p9, p8]) }
        ports := { s.ports with sclk := 1, csN := 1, sdo := s.params.adcDcBit }
        own :=
          { s.own with
            csN := some .output, sclk := some .output, sdo := some .output, sdi := some .input }
        env := { s.env with grants := gs, levels := ls }
        held := 19 * (2 * s.params.tHold) + 2 * s.params.tCs
        seq := .adcRead ch .finish } := by
  have hheld : 19 * (2 * s.params.tHold) + 2 * s.params.tCs =
      0 + s.params.tCs + 5 * (2 * s.params.tHold) + 14 * (2 * s.params.tHold) + s.params.tCs := by omega
  rw [hheld]
  refine (execN_add (j := 7) (k := 98) (execN_adcSelect hs hgrants)).trans ?_
  refine (execN_add (j := 25) (k := 73) (execN_header rfl)).trans ?_
  refine (execN_add (j := 72) (k := 1) (execN_readouts hms hqs rfl rfl (by exact hls))).trans ?_
  exact execN_micro (q := .adcRead ch .holdReleased) rfl rfl

/-- The validator (R95): the sample is delivered if the two paths agree. -/
theorem exec_adcFinish {s : State} {ch : BitVec 2} (hs : s.seq = .adcRead ch .finish)
    (hdht : s.own.dht = none) :
    exec (.adcRead ch) s = .next
      { s with
        regs :=
          if s.work.msb = s.work.lsb then endRegs .none (adcResult ch s.work.msb s.regs)
          else endRegs .sampleDisagree s.regs
        seq := .idle
        own := Own.empty } := by
  rw [exec_at hs rfl]
  simp only [micro, adcMicro]
  split
  · simp only [complete, releaseAll, hdht, endRegs]
  · rw [raiseErr_eq]
    simp only [hdht, if_true, endRegs]

/-- Two readouts of the same ADC_READ agree exactly when the second is the first in reverse (R95). -/
theorem readouts_agree_iff {p1 p2 p3 p4 p5 p6 p7 p8 p9 p10 p11 p12 p13 p14 p15 : Bit} :
    readout [p1, p2, p3, p4, p5, p6, p7, p8] = readout [p15, p14, p13, p12, p11, p10, p9, p8] ↔
      p9 = p7 ∧ p10 = p6 ∧ p11 = p5 ∧ p12 = p4 ∧ p13 = p3 ∧ p14 = p2 ∧ p15 = p1 := by
  constructor
  · intro h
    cases readout_injective rfl rfl h
    exact ⟨rfl, rfl, rfl, rfl, rfl, rfl, rfl⟩
  · rintro ⟨rfl, rfl, rfl, rfl, rfl, rfl, rfl⟩
    rfl

/-- Settles O39: the run reads both paths into the accumulators, and the validator compares them. -/
theorem adcReadWholeRun : Obligations.AdcReadWholeRun := by
  unfold Obligations.AdcReadWholeRun
  intro s ch p1 p2 p3 p4 p5 p6 p7 p8 p9 p10 p11 p12 p13 p14 p15 ls gs hs hown hgrants hls
  have hrun := execN_adcConversion (ch := ch) (ms := [p2, p3, p4, p5, p6, p7])
    (qs := [p10, p11, p12, p13, p14, p15]) rfl rfl hs hgrants hls
  have hdht : s.own.dht = none := by rw [hown]; rfl
  refine ⟨_, (execN_add (k := 1) hrun).trans (execN_succ (exec_adcFinish rfl hdht)),
    rfl, rfl, rfl, rfl, rfl, ?_⟩
  have hagree := @readouts_agree_iff p1 p2 p3 p4 p5 p6 p7 p8 p9 p10 p11 p12 p13 p14 p15
  rw [← readout_eight]
  by_cases h : p9 = p7 ∧ p10 = p6 ∧ p11 = p5 ∧ p12 = p4 ∧ p13 = p3 ∧ p14 = p2 ∧ p15 = p1
  · rw [if_pos h]
    exact if_pos (hagree.mpr h)
  · rw [if_neg h]
    exact if_neg (mt hagree.mp h)

end Sys2Proof.Machine

/-! SUPPORT. A whole DHT_READ: the 83 waits one after the other, each leading to the next. -/

namespace Sys2Proof.Machine

/-! ### Runs whose last micro-action belongs to the next part -/

/-- After some micro-actions of the command, what `s` does from then on is what `t` does. The return of a
WaitLevel is part of the micro-action that follows it (R11), so `t` need not be a state of the run itself. -/
def LeadsTo (i : Instr) (s t : State) : Prop :=
  ∃ k, ∀ n, execN (k + (n + 1)) i s = execN (n + 1) i t

theorem LeadsTo.of_execN {i : Instr} {s t : State} {k : Nat} (h : execN k i s = .next t) :
    LeadsTo i s t :=
  ⟨k, fun _ => execN_add h⟩

theorem LeadsTo.of_exec_eq {i : Instr} {s t : State} (h : exec i s = exec i t) : LeadsTo i s t :=
  ⟨0, fun n => by rw [Nat.zero_add, execN_succ_congr h]⟩

theorem LeadsTo.trans {i : Instr} {s t u : State} (hst : LeadsTo i s t) (htu : LeadsTo i t u) :
    LeadsTo i s u := by
  obtain ⟨k, hk⟩ := hst
  obtain ⟨m, hm⟩ := htu
  refine ⟨k + m, fun n => ?_⟩
  rw [Nat.add_assoc, ← hm n]
  exact hk (m + n)

/-- The next micro-action of `t` ends a run of `s`. -/
theorem LeadsTo.exec_next {i : Instr} {s t u : State} (hst : LeadsTo i s t) (h : exec i t = .next u) :
    ∃ k, execN k i s = .next u := by
  obtain ⟨k, hk⟩ := hst
  exact ⟨k + 1, (hk 0).trans (execN_succ h)⟩

/-! ### Where a DHT_READ stands before a wait -/

/-- The block at the first poll of a wait of a DHT_READ accepted in `s`, with the frame `f`, the byte `y`
and the count `n` in the working registers, the levels `ls` to come, and holds of `h` behind it. -/
def State.atWait (s : State) (gs : List Grant) (site : WaitSite) (f : Frame) (y n : Byte) (ls : List Bit)
    (h : Nat) : State :=
  { accept .dhtRead s with
    work := { s.work with frame := f, byte := y, n := n }
    ports := { s.ports with dhtO := 1, dhtOe := 0 }
    own := { s.own with dht := some .input }
    env := { s.env with grants := gs, levels := ls }
    held := h
    seq := .dhtRead (.wait site (.poll 0)) }

/-- A DHT_READ accepted in `s` comes to the first poll of a wait, after the holds of its request. -/
def ReachesWait (s : State) (gs : List Grant) (site : WaitSite) (f : Frame) (y : Byte) (ls : List Bit) :
    Prop :=
  ∃ n h, s.params.tReqLow + s.params.tReqHigh ≤ h ∧
    LeadsTo .dhtRead s (s.atWait gs site f y n ls h)

/-- Acceptance and the request lead to the first wait of the handshake (R66, R99). -/
theorem reachesWait_handshake {s : State} {gs : List Grant} (hs : s.seq = .idle)
    (hgrants : s.env.grants = .ok :: .ok :: gs) :
    ReachesWait s gs (.handshake 0) ⟨0, 0, 0, 0, 0⟩ 0 s.env.levels := by
  refine ⟨0, 0 + s.params.tReqLow + s.params.tReqHigh, by omega, .of_execN (k := 7) ?_⟩
  refine (execN_succ (exec_accept hs)).trans ?_
  refine (execN_succ (exec_granted (q := .dhtRead .acquireOut) rfl rfl rfl (by exact hgrants))).trans ?_
  refine (execN_micro (q := .dhtRead .driveLow) rfl rfl).trans ?_
  refine (execN_micro (q := .dhtRead .holdLow) rfl rfl).trans ?_
  refine (execN_micro (q := .dhtRead .driveHigh) rfl rfl).trans ?_
  refine (execN_micro (q := .dhtRead .holdHigh) rfl rfl).trans ?_
  exact execN_succ (exec_granted (q := .dhtRead .acquireIn) rfl rfl rfl rfl)

section

variable {s : State} {gs : List Grant} {site site' : WaitSite} {f f' : Frame} {y y' : Byte}
  {ls : List Bit}

/-- A wait that does not time out leads to the next one, with the working registers as its return and the
entry of the next wait leave them (R98, R102). -/
theorem ReachesWait.wait {n : Nat} (h : ReachesWait s gs site f y (waitAnswers site.level n ++ ls))
    (hn : n < s.params.nWait) (hnext : site.next = some site')
    (hwork : ∀ w : Work, enterWait site' (waitReturns site n s.params.dhtThresh
        { w with frame := f, byte := y }) =
      { w with frame := f', byte := y', n := BitVec.ofNat 8 n }) :
    ReachesWait s gs site' f' y' ls := by
  obtain ⟨n₀, held, hheld, hlead⟩ := h
  refine ⟨BitVec.ofNat 8 n, held + n * s.params.tPoll, by omega, hlead.trans ?_⟩
  refine LeadsTo.trans (.of_execN (execN_waitLevel rfl (by exact hn) rfl)) ?_
  refine (LeadsTo.of_exec_eq (exec_waitReturn rfl hnext)).trans ?_
  refine .of_exec_eq (congrArg _ ?_)
  exact congrArg (fun w => { s.atWait gs site' f y n₀ ls (held + n * s.params.tPoll) with work := w })
    (hwork { s.work with n := n₀ })

/-- The bit that a pulse of `n` polls stands for (R101). -/
def pulseBit (threshold n : Nat) : Bit := dhtBit (BitVec.ofNat 8 n) threshold

/-- A wait of the handshake that is not the last. -/
theorem ReachesWait.handshake {k : Fin 3} {n : Nat}
    (h : ReachesWait s gs (.handshake k) f y (waitAnswers (handshakeLevel k) n ++ ls))
    (hn : n < s.params.nWait) (hk : k.val + 1 < 3) :
    ReachesWait s gs (.handshake ⟨k.val + 1, hk⟩) f y ls := by
  refine ReachesWait.wait (site := .handshake k) h hn ?_ fun _ => rfl
  simp only [WaitSite.next, nextIndex_of_lt hk]

/-- The last wait of the handshake leads to the first byte. -/
theorem ReachesWait.lastHandshake {n : Nat}
    (h : ReachesWait s gs (.handshake 2) f y (waitAnswers 1 n ++ ls)) (hn : n < s.params.nWait) :
    ReachesWait s gs (.fall 0 0) f 0 ls :=
  ReachesWait.wait (site := .handshake 2) h hn rfl fun _ => rfl

/-- The first wait of a bit leads to the second. -/
theorem ReachesWait.fall {k : Fin 5} {j : Fin 8} {n : Nat}
    (h : ReachesWait s gs (.fall k j) f y (waitAnswers 0 n ++ ls)) (hn : n < s.params.nWait) :
    ReachesWait s gs (.rise k j) f y ls :=
  ReachesWait.wait (site := .fall k j) h hn rfl fun _ => rfl

/-- The two waits of a bit that is not the last of its byte. -/
theorem ReachesWait.bit {k : Fin 5} {j : Fin 8} {a n : Nat}
    (h : ReachesWait s gs (.fall k j) f y (waitAnswers 0 a ++ (waitAnswers 1 n ++ ls)))
    (ha : a < s.params.nWait) (hn : n < s.params.nWait) (hj : j.val + 1 < 8) :
    ReachesWait s gs (.fall k ⟨j.val + 1, hj⟩) f (shiftIn y (pulseBit s.params.dhtThresh n)) ls := by
  have hindex := nextIndex_of_lt hj
  refine ReachesWait.wait (site := .rise k j) (h.fall ha) hn ?_ fun w => ?_
  · simp only [WaitSite.next, hindex]
  · simp only [waitReturns, takeDhtBit, hindex, enterWait, Nat.succ_ne_zero, if_false, pulseBit]

/-- The last bit of a byte that is not the last of the frame: the byte goes into the frame. -/
theorem ReachesWait.lastBit {k : Fin 5} {a n : Nat}
    (h : ReachesWait s gs (.fall k 7) f y (waitAnswers 0 a ++ (waitAnswers 1 n ++ ls)))
    (ha : a < s.params.nWait) (hn : n < s.params.nWait) (hk : k.val + 1 < 5) :
    ReachesWait s gs (.fall ⟨k.val + 1, hk⟩ 0)
      (setFrameByte f k (shiftIn y (pulseBit s.params.dhtThresh n))) 0 ls := by
  have hindex : nextIndex (7 : Fin 8) = none := nextIndex_of_not_lt (by decide)
  refine ReachesWait.wait (site := .rise k 7) (h.fall ha) hn ?_ fun w => ?_
  · simp only [WaitSite.next, hindex, nextIndex_of_lt hk]
  · simp [waitReturns, takeDhtBit, hindex, enterWait, pulseBit]

/-- The levels in the two waits of each of the bits `js` of a byte (R101). -/
def bitAnswers (a n : Fin 8 → Nat) (js : List (Fin 8)) : List Bit :=
  js.flatMap fun j => waitAnswers 0 (a j) ++ waitAnswers 1 (n j)

/-- The byte that the pulses `n` of its eight bits stand for (R102). -/
def pulseByte (threshold : Nat) (n : Fin 8 → Nat) : Byte :=
  readout ((List.finRange 8).map fun j => pulseBit threshold (n j))

section

variable {k : Fin 5} {a n : Fin 8 → Nat}

/-- The first `m` bits of a byte, and the levels of the others to come. -/
theorem ReachesWait.bits (h : ReachesWait s gs (.fall k 0) f 0 (bitAnswers a n (List.finRange 8) ++ ls))
    (ha : ∀ j, a j < s.params.nWait) (hn : ∀ j, n j < s.params.nWait) {m : Nat} (hm : m < 8) :
    ReachesWait s gs (.fall k ⟨m, hm⟩) f
      (readout (((List.finRange 8).take m).map fun j => pulseBit s.params.dhtThresh (n j)))
      (bitAnswers a n ((List.finRange 8).drop m) ++ ls) := by
  induction m with
  | zero => exact h
  | succ m ih =>
    have hlen : m < (List.finRange 8).length := by rw [List.length_finRange]; omega
    have hprev := ih (by omega)
    rw [List.drop_eq_getElem_cons hlen, bitAnswers, List.flatMap_cons, List.append_assoc,
      List.append_assoc] at hprev
    rw [List.take_succ_eq_append_getElem hlen, List.map_append, List.map_singleton, readout_concat]
    exact hprev.bit (ha _) (hn _) hm

/-- Before the last bit of a byte: its answers are the next ones, and it completes the byte. -/
theorem bitAnswers_last (ls : List Bit) :
    bitAnswers a n ((List.finRange 8).drop 7) ++ ls =
      waitAnswers 0 (a 7) ++ (waitAnswers 1 (n 7) ++ ls) := by
  have hlast : (List.finRange 8).drop 7 = [7] := rfl
  rw [hlast, bitAnswers, List.flatMap_singleton, List.append_assoc]

theorem shiftIn_last (threshold : Nat) :
    shiftIn (readout (((List.finRange 8).take 7).map fun j => pulseBit threshold (n j)))
      (pulseBit threshold (n 7)) = pulseByte threshold n :=
  (readout_concat _ _).symm

/-- The sixteen waits of a byte that is not the last of the frame (R102). -/
theorem ReachesWait.byte (h : ReachesWait s gs (.fall k 0) f 0 (bitAnswers a n (List.finRange 8) ++ ls))
    (ha : ∀ j, a j < s.params.nWait) (hn : ∀ j, n j < s.params.nWait) (hk : k.val + 1 < 5) :
    ReachesWait s gs (.fall ⟨k.val + 1, hk⟩ 0)
      (setFrameByte f k (pulseByte s.params.dhtThresh n)) 0 ls := by
  have hseven := h.bits ha hn (m := 7) (by decide)
  rw [bitAnswers_last] at hseven
  rw [← shiftIn_last]
  exact hseven.lastBit (ha 7) (hn 7) hk

end

/-- The return of the very last wait ends the command, after the last bit has been taken (R102, R103). -/
theorem ReachesWait.lastOfFrame {n : Nat} (h : ReachesWait s gs (.rise 4 7) f y (waitAnswers 1 n ++ ls))
    (hn : n < s.params.nWait) :
    ∃ steps q c held, s.params.tReqLow + s.params.tReqHigh ≤ held ∧
      execN steps .dhtRead s = .next (dhtFinish
        { s.atWait gs (.rise 4 7) (setFrameByte f 4 (shiftIn y (pulseBit s.params.dhtThresh n)))
            (shiftIn y (pulseBit s.params.dhtThresh n)) c ls held with seq := q }) := by
  obtain ⟨c, held, hheld, hlead⟩ := h
  have hwait := execN_waitLevel (s := s.atWait gs (.rise 4 7) f y c (waitAnswers 1 n ++ ls) held)
    (site := .rise 4 7) rfl (by exact hn) rfl
  obtain ⟨steps, hsteps⟩ := (hlead.trans (.of_execN hwait)).exec_next (exec_seen (site := .rise 4 7) rfl)
  exact ⟨steps, _, BitVec.ofNat 8 n, held + n * s.params.tPoll, by omega, hsteps⟩

end

/-! ### A whole DHT_READ (R99 to R104) -/

/-- The end of DHT_READ (R103, R104): the frame is delivered if its checksum holds. -/
theorem dhtFinish_eq {s : State} (hdht : s.own.dht = some .input) :
    dhtFinish s =
      { s with
        regs :=
          if frameValid s.work.frame then endRegs .none (dhtResult s.work.frame s.regs)
          else endRegs .checksum s.regs
        ports := { s.ports with dhtOe := 0 }
        seq := .idle
        own := Own.empty } := by
  rw [dhtFinish]
  split
  · simp only [complete, releaseAll, hdht, endRegs]
  · rw [raiseErr_eq]
    simp [hdht, endRegs]

/-- Bit 7-j of a byte is the bit of its pulse `j`. -/
theorem pulseByte_getLsbD {threshold : Nat} {n : Fin 8 → Nat} (hn : ∀ j, n j < 256) (j : Fin 8) :
    (pulseByte threshold n).getLsbD (7 - j.val) = decide (n j > threshold) := by
  have hj : 7 - (7 - j.val) = j.val := by omega
  have hbit := readout_reverse_getLsbD
    (bits := ((List.finRange 8).map fun j => pulseBit threshold (n j)).reverse) (i := 7 - j.val)
    (by simp) (by simp; omega)
  rw [List.reverse_reverse, List.getElem_reverse] at hbit
  refine hbit.trans (.trans ?_ (dhtBit_ofNat (hn j) threshold))
  simp [hj, pulseBit]

/-- The answers to a whole DHT_READ, byte after byte. -/
theorem dhtAnswers_eq (h : Fin 3 → Nat) (a n : Fin 5 → Fin 8 → Nat) (ls : List Bit) :
    dhtAnswers h a n ++ ls =
      waitAnswers 1 (h 0) ++ (waitAnswers 0 (h 1) ++ (waitAnswers 1 (h 2) ++
        (bitAnswers (a 0) (n 0) (List.finRange 8) ++ (bitAnswers (a 1) (n 1) (List.finRange 8) ++
          (bitAnswers (a 2) (n 2) (List.finRange 8) ++ (bitAnswers (a 3) (n 3) (List.finRange 8) ++
            (bitAnswers (a 4) (n 4) (List.finRange 8) ++ ls))))))) := by
  have h3 : List.finRange 3 = [0, 1, 2] := rfl
  have h5 : List.finRange 5 = [0, 1, 2, 3, 4] := rfl
  simp only [dhtAnswers, h3, h5, List.flatMap_cons, List.flatMap_nil, List.append_assoc, List.append_nil]
  rfl

/-- A whole DHT_READ up to its end: the frame holds the bytes of the pulses. -/
theorem execN_dhtFrame {s : State} {h : Fin 3 → Nat} {a n : Fin 5 → Fin 8 → Nat} {ls : List Bit}
    {gs : List Grant} (hs : s.seq = .idle) (hgrants : s.env.grants = .ok :: .ok :: gs)
    (hh : ∀ k, h k < s.params.nWait) (ha : ∀ k j, a k j < s.params.nWait)
    (hn : ∀ k j, n k j < s.params.nWait) (hls : s.env.levels = dhtAnswers h a n ++ ls)
    {b : Fin 5 → Byte} (hb : ∀ k, b k = pulseByte s.params.dhtThresh (n k)) :
    ∃ steps q c held, s.params.tReqLow + s.params.tReqHigh ≤ held ∧
      execN steps .dhtRead s = .next (dhtFinish
        { s.atWait gs (.rise 4 7) ⟨b 0, b 1, b 2, b 3, b 4⟩ (b 4) c ls held with seq := q }) := by
  have hfirst := reachesWait_handshake hs hgrants
  rw [hls, dhtAnswers_eq] at hfirst
  have hsecond := hfirst.handshake (hh 0) (by decide)
  have hthird := hsecond.handshake (hh 1) (by decide)
  have hbyte0 := hthird.lastHandshake (hh 2)
  have hbyte1 := hbyte0.byte (ha 0) (hn 0) (by decide)
  have hbyte2 := hbyte1.byte (ha 1) (hn 1) (by decide)
  have hbyte3 := hbyte2.byte (ha 2) (hn 2) (by decide)
  have hbyte4 := hbyte3.byte (ha 3) (hn 3) (by decide)
  rw [← hb, ← hb, ← hb, ← hb] at hbyte4
  have hseven := hbyte4.bits (ha 4) (hn 4) (m := 7) (by decide)
  rw [bitAnswers_last] at hseven
  have hlast := (hseven.fall (ha 4 7)).lastOfFrame (hn 4 7)
  rw [shiftIn_last, ← hb] at hlast
  exact hlast

/-- Settles O45: the request, three waits of the handshake, four bytes that lead on, and the last. -/
theorem dhtReadWholeRun : Obligations.DhtReadWholeRun := by
  unfold Obligations.DhtReadWholeRun
  intro s h a n ls gs hs _ hgrants hmax hh ha hn hls
  have hbits (k : Fin 5) := pulseByte_getLsbD (threshold := s.params.dhtThresh)
    fun j => (hn k j).trans_le hmax
  obtain ⟨b, hb⟩ : ∃ b : Fin 5 → Byte, ∀ k, b k = pulseByte s.params.dhtThresh (n k) :=
    ⟨_, fun _ => rfl⟩
  obtain ⟨steps, q, c, held, hheld, hrun⟩ := execN_dhtFrame hs hgrants hh ha hn hls hb
  rw [dhtFinish_eq rfl] at hrun
  simp only [← hb] at hbits
  refine ⟨steps, _, ⟨b 0, b 1, b 2, b 3, b 4⟩, hrun,
    fun j => ⟨hbits 0 j, hbits 1 j, hbits 2 j, hbits 3 j, hbits 4 j⟩, rfl, rfl, rfl, rfl, hheld, ?_⟩
  by_cases hsum : ((b 0).toNat + (b 1).toNat + (b 2).toNat + (b 3).toNat) % 256 = (b 4).toNat
  · rw [if_pos hsum]
    exact if_pos (frameValid_iff.mpr hsum)
  · rw [if_neg hsum]
    exact if_neg (mt frameValid_iff.mp hsum)

end Sys2Proof.Machine

/-! SUPPORT. One scan pass of KEYPAD_RUN: the sixteen samples, row after row. -/

namespace Sys2Proof.Machine

/-! ### The set of keys whose sample read 1 -/

/-- `cur` holds exactly the keys whose sample among the first ones of a pass read 1 (R109). -/
def HasKeys (cur : KeySet) (keys : List Bit) : Prop :=
  ∀ i < 16, cur.getLsbD i = true ↔ keys[i]? = some 1

theorem HasKeys.none : HasKeys 0 [] := by
  intro i _
  simp

theorem addKey_getLsbD (cur : KeySet) (r c : Fin 4) (i : Nat) :
    (addKey cur r c).getLsbD i = (cur.getLsbD i || decide (keyIndex r c = i)) := by
  have hlt : keyIndex r c < 16 := by unfold keyIndex; omega
  have hone : (1#16 <<< keyIndex r c).getLsbD i = decide (keyIndex r c = i) := by
    refine (BitVec.getLsbD_twoPow _ i).trans ?_
    rw [decide_eq_true hlt, Bool.true_and]
  rw [addKey, BitVec.getLsbD_or, hone]

/-- The next sample is that of the next key. -/
theorem HasKeys.sample {cur : KeySet} {keys : List Bit} (h : HasKeys cur keys) {r c : Fin 4}
    (hindex : keyIndex r c = keys.length) (b : Bit) :
    HasKeys (if b = 1 then addKey cur r c else cur) (keys ++ [b]) := by
  intro i hi
  have hadd : (if b = 1 then addKey cur r c else cur).getLsbD i = true ↔
      cur.getLsbD i = true ∨ b = 1 ∧ keys.length = i := by
    by_cases hb : b = 1
    · rw [if_pos hb, addKey_getLsbD, hindex, Bool.or_eq_true, decide_eq_true_iff]
      simp only [hb, true_and]
    · rw [if_neg hb]
      simp only [hb, false_and, or_false]
  rw [hadd, h i hi]
  rcases Nat.lt_trichotomy i keys.length with hlt | rfl | hgt
  · rw [List.getElem?_append_left hlt]
    simp only [hlt.ne', and_false, or_false]
  · simp
  · rw [List.getElem?_eq_none hgt.le, List.getElem?_eq_none (by simp; omega)]
    simp [hgt.ne]

/-! ### Where a pass stands -/

/-- The block within a scan pass that began in `s`. -/
def State.atScan (s : State) (q : KeypadPos) (rows : BitVec 4) (cur : KeySet) (ls : List Bit) (h : Nat) :
    State :=
  { s with
    ports := { s.ports with krow := rows }
    work := { s.work with cur := cur }
    env := { s.env with levels := ls }
    held := h
    seq := .keypadRun q }

/-- After `k` micro-actions of a pass: `taken` samples drawn, the first `marked` of them in `cur`, and
`holds` times `T_ROW` behind it. -/
def ScanReaches (s : State) (keys ls : List Bit) (k : Nat) (q : KeypadPos) (rows : BitVec 4)
    (marked taken holds : Nat) : Prop :=
  ∃ cur, HasKeys cur (keys.take marked) ∧
    execN k .keypadRun s =
      .next (s.atScan q rows cur (keys.drop taken ++ ls) (s.held + holds * s.params.tRow))

theorem execN_concat {i : Instr} {s t u : State} {k : Nat} (h : execN k i s = .next t)
    (h' : exec i t = .next u) : execN (k + 1) i s = .next u :=
  (execN_add (k := 1) h).trans (execN_succ h')

theorem drop_of_getElem? {keys : List Bit} {d : Nat} {b : Bit} (hb : keys[d]? = some b) :
    keys.drop d = b :: keys.drop (d + 1) := by
  obtain ⟨hlt, rfl⟩ := List.getElem?_eq_some_iff.mp hb
  exact List.drop_eq_getElem_cons hlt

section

variable {s : State} {q : KeypadPos} {rows : BitVec 4} {cur : KeySet} {ls : List Bit} {h : Nat}
  {r c : Fin 4} {b : Bit}

/-- The sample of a column within a pass. -/
theorem columnMicro_atScan :
    columnMicro r c (s.atScan q rows cur (b :: ls) h) = s.atScan (.seen r c b) rows cur ls h := by
  simp only [columnMicro, sample_cons (s := s.atScan q rows cur (b :: ls) h) rfl]
  rfl

theorem markKey_atScan :
    markKey r c b (s.atScan q rows cur ls h) =
      s.atScan q rows (if b = 1 then addKey cur r c else cur) ls h := by
  unfold markKey
  split <;> rfl

/-- A column's level is taken with the sample of the next column (R11, R109). -/
theorem exec_seen_next (hs : s.seq = .keypadRun (.seen r c b)) (hc : c.val + 1 < 4) :
    exec .keypadRun s = .next (columnMicro r ⟨c.val + 1, hc⟩ (markKey r c b s)) := by
  rw [exec_at hs rfl]
  simp only [micro, keypadMicro, nextIndex_of_lt hc]

/-- The last column's level is taken with the fall of the row (R11, R109). -/
theorem exec_seen_last (hs : s.seq = .keypadRun (.seen r 3 b)) :
    exec .keypadRun s =
      .next (goto (.keypadRun (afterRow r)) (drive (.krow r) 0 (markKey r 3 b s))) :=
  exec_at hs rfl

end

section

variable {s : State} {keys ls : List Bit} {k marked taken holds d : Nat} {r c : Fin 4} {b b' : Bit}
  {rows : BitVec 4}

/-- The top of an iteration that is not cancelled: `cur` is cleared and row 0 rises (R109, R110). -/
theorem scanReaches_top (hs : s.seq = .keypadRun .top) (hcancel : s.regs.cancel = 0)
    (hrows : s.ports.krow = 0) (hls : s.env.levels = keys ++ ls) :
    ScanReaches s keys ls 1 (.rowHold 0) (1#4 <<< 0) 0 0 0 := by
  have hne : s.regs.cancel ≠ 1 := by rw [hcancel]; decide
  refine ⟨0, .none, (execN_micro hs rfl).trans ?_⟩
  simp only [micro, keypadMicro, if_neg hne, State.atScan, drive, drivePorts, hrows, List.drop_zero, ← hls]
  rw [Nat.zero_mul]
  rfl

/-- The hold with the row high (R109). -/
theorem ScanReaches.hold (h : ScanReaches s keys ls k (.rowHold r) rows marked taken holds) :
    ScanReaches s keys ls (k + 1) (.firstColumn r) rows marked taken (holds + 1) := by
  obtain ⟨cur, hcur, hrun⟩ := h
  refine ⟨cur, hcur, ?_⟩
  rw [Nat.succ_mul, ← Nat.add_assoc]
  exact execN_concat hrun (exec_at rfl rfl)

/-- The sample of a row's first column. -/
theorem ScanReaches.firstColumn (h : ScanReaches s keys ls k (.firstColumn r) rows marked d holds)
    (hb : keys[d]? = some b) :
    ScanReaches s keys ls (k + 1) (.seen r 0 b) rows marked (d + 1) holds := by
  obtain ⟨cur, hcur, hrun⟩ := h
  rw [drop_of_getElem? hb] at hrun
  exact ⟨cur, hcur, execN_concat hrun ((exec_at rfl rfl).trans (congrArg _ columnMicro_atScan))⟩

/-- The level of key `d` is taken into `cur`. -/
theorem HasKeys.mark {cur : KeySet} (h : HasKeys cur (keys.take d)) (hb : keys[d]? = some b)
    (hd : keyIndex r c = d) :
    HasKeys (if b = 1 then addKey cur r c else cur) (keys.take (d + 1)) := by
  obtain ⟨hlt, -⟩ := List.getElem?_eq_some_iff.mp hb
  rw [List.take_add_one, hb]
  exact h.sample (by rw [hd, List.length_take_of_le hlt.le]) b

/-- The sample of the next column, with the level of the one before it taken into `cur` (R11, R109). -/
theorem ScanReaches.nextColumn (h : ScanReaches s keys ls k (.seen r c b) rows d (d + 1) holds)
    (hb : keys[d]? = some b) (hd : keyIndex r c = d) (hb' : keys[d + 1]? = some b')
    (hc : c.val + 1 < 4) :
    ScanReaches s keys ls (k + 1) (.seen r ⟨c.val + 1, hc⟩ b') rows (d + 1) (d + 2) holds := by
  obtain ⟨cur, hcur, hrun⟩ := h
  rw [drop_of_getElem? hb'] at hrun
  refine ⟨_, hcur.mark hb hd, execN_concat hrun ((exec_seen_next rfl hc).trans (congrArg _ ?_))⟩
  rw [markKey_atScan]
  exact columnMicro_atScan

/-- The row falls, with the level of its last column taken into `cur`. -/
theorem ScanReaches.rowLow (h : ScanReaches s keys ls k (.seen r 3 b) (1#4 <<< r.val) d (d + 1) holds)
    (hb : keys[d]? = some b) (hd : keyIndex r 3 = d) :
    ScanReaches s keys ls (k + 1) (afterRow r) 0 (d + 1) (d + 1) holds := by
  obtain ⟨cur, hcur, hrun⟩ := h
  refine ⟨_, hcur.mark hb hd, execN_concat hrun ((exec_seen_last rfl).trans (congrArg _ ?_))⟩
  rw [markKey_atScan]
  simp only [drive, drivePorts, State.atScan, setRow_low, goto]

/-- The next row rises. -/
theorem ScanReaches.rowHigh (h : ScanReaches s keys ls k (.rowHigh r) 0 marked taken holds) :
    ScanReaches s keys ls (k + 1) (.rowHold r) (1#4 <<< r.val) marked taken holds := by
  obtain ⟨cur, hcur, hrun⟩ := h
  refine ⟨cur, hcur, execN_concat hrun ((exec_at rfl rfl).trans (congrArg _ ?_))⟩
  simp only [micro, keypadMicro, drive, drivePorts, State.atScan, setRow_high, goto]

/-! ### Rows and columns of a pass (R109) -/

/-- The samples of a row, from its hold on. -/
theorem ScanReaches.column
    (h : ScanReaches s keys ls k (.rowHold r) (1#4 <<< r.val) (4 * r.val) (4 * r.val) r.val)
    (hkeys : keys.length = 16) {m : Nat} (hm : m < 4) :
    ∃ b, keys[4 * r.val + m]? = some b ∧
      ScanReaches s keys ls (k + 2 + m) (.seen r ⟨m, hm⟩ b) (1#4 <<< r.val) (4 * r.val + m)
        (4 * r.val + m + 1) (r.val + 1) := by
  have hlevel : keys[4 * r.val + m]? = some (keys[4 * r.val + m]'(by omega)) :=
    List.getElem?_eq_getElem _
  refine ⟨_, hlevel, ?_⟩
  induction m with
  | zero => exact h.hold.firstColumn hlevel
  | succ m ih =>
    have hprev : keys[4 * r.val + m]? = some (keys[4 * r.val + m]'(by omega)) :=
      List.getElem?_eq_getElem _
    exact (ih (by omega) hprev).nextColumn hprev rfl hlevel hm

/-- A whole row, from its hold to its fall. -/
theorem ScanReaches.row
    (h : ScanReaches s keys ls k (.rowHold r) (1#4 <<< r.val) (4 * r.val) (4 * r.val) r.val)
    (hkeys : keys.length = 16) :
    ScanReaches s keys ls (k + 6) (afterRow r) 0 (4 * r.val + 4) (4 * r.val + 4) (r.val + 1) := by
  obtain ⟨b, hb, hlast⟩ := h.column hkeys (m := 3) (by decide)
  exact hlast.rowLow hb rfl

/-- Each row's hold begins seven micro-actions after that of the row before it. -/
theorem scanReaches_rowHold (hs : s.seq = .keypadRun .top) (hcancel : s.regs.cancel = 0)
    (hrows : s.ports.krow = 0) (hkeys : keys.length = 16) (hls : s.env.levels = keys ++ ls) {m : Nat}
    (hm : m < 4) :
    ScanReaches s keys ls (7 * m + 1) (.rowHold ⟨m, hm⟩) (1#4 <<< m) (4 * m) (4 * m) m := by
  induction m with
  | zero => exact scanReaches_top hs hcancel hrows hls
  | succ m ih =>
    have hrow := (ih (by omega)).row hkeys
    have hafter : afterRow ⟨m, by omega⟩ = .rowHigh ⟨m + 1, hm⟩ := by
      simp only [afterRow, nextIndex_of_lt (k := (⟨m, by omega⟩ : Fin 4)) hm]
    rw [hafter] at hrow
    exact hrow.rowHigh

end

/-- Settles O46: four rows, each with its hold, its four samples and its fall. -/
theorem scanPassReportsTheSampledKeys : Obligations.ScanPassReportsTheSampledKeys := by
  unfold Obligations.ScanPassReportsTheSampledKeys
  intro s keys ls hs hcancel hrows hkeys hls
  have hhold (r : Fin 4) := scanReaches_rowHold hs hcancel hrows hkeys hls r.isLt
  obtain ⟨cur, hcur, hrun⟩ := (hhold 3).row hkeys
  have hall : keys.take 16 = keys := List.take_of_length_le hkeys.le
  have hnone : keys.drop 16 = [] := List.drop_of_length_le hkeys.le
  refine ⟨_, hrun, rfl, fun r c => ?_, ?_, rfl, rfl, ?_, rfl, fun r => ⟨?_, fun c => ?_⟩⟩
  · exact hall ▸ hcur (4 * r.val + c.val) (by omega)
  · exact congrArg (fun v => { s.ports with krow := v }) hrows.symm
  · exact congrArg (· ++ ls) hnone
  · obtain ⟨cur, -, hrow⟩ := hhold r
    exact ⟨_, hrow, rfl, rfl, rfl, rfl⟩
  · obtain ⟨_ | m, hm⟩ := c
    · obtain ⟨cur, -, hfirst⟩ := (hhold r).hold
      exact ⟨_, hfirst, rfl, rfl, rfl⟩
    · obtain ⟨b, -, cur, -, hsample⟩ := (hhold r).column hkeys (m := m) (by omega)
      rw [show 7 * r.val + 2 + (m + 1) = 7 * r.val + 1 + 2 + m by omega]
      exact ⟨_, hsample, rfl, rfl, rfl⟩

end Sys2Proof.Machine

/-! SUPPORT. What a command leaves alone, said once as an equation between states, and the frames of the
serial commands. -/

namespace Sys2Proof.Machine

/-! ### The state outside a command -/

/-- The state with the fields blanked that any command may change: its outcome, position, lines and time
base, and the draws of the environment. -/
def State.outsideAny (s : State) : State :=
  { s with
    regs := { s.regs with status := { s.regs.status with busy := 0, done := 0, err := .none } }
    ports := { s.ports with dhtOe := 0 }
    seq := .idle
    own := Own.empty
    env := { s.env with levels := [], grants := [], drawn := 0 }
    held := 0 }

/-- The state with the registers, ports and working registers of the command `i` blanked. -/
def State.outsideOwn (i : Instr) (s : State) : State :=
  match i with
  | .sendBit _ => { s with ports := { s.ports with sclk := 0, sdo := 0 } }
  | .recvBit =>
    { s with ports := { s.ports with sclk := 0 }, regs := { s.regs with rxbit := ⟨0, 0⟩ } }
  | .adcRead _ =>
    { s with
      ports := { s.ports with sclk := 0, sdo := 0, csN := 0 }
      regs := { s.regs with adcData := ⟨0, 0, 0⟩ }
      work := { s.work with msb := 0, lsb := 0 } }
  | .dhtRead =>
    { s with
      ports := { s.ports with dhtO := 0 }
      regs := { s.regs with dhtData := ⟨0, 0, 0, 0⟩, dhtCsum := ⟨0, 0⟩ }
      work := { s.work with frame := ⟨0, 0, 0, 0, 0⟩, byte := 0, n := 0 } }
  | .keypadRun =>
    { s with
      ports := { s.ports with krow := 0 }
      regs :=
        { s.regs with
          keyNew := 0
          keyCur := 0
          status := { s.regs.status with keyEvt := 0, keyOvr := 0 } }
      work := { s.work with cur := 0, prev := 0 } }
  | .tiltRun | .slideRun _ _ =>
    { s with
      ports := { s.ports with ind0 := 0, ind1 := 0 }
      regs := { s.regs with evCount := 0, status := { s.regs.status with swEvt := 0 } }
      work := { s.work with swLast := 0 } }

/-- What the command `i` leaves alone: everything but its own fields and those any command may change. -/
def State.outside (i : Instr) (s : State) : State := s.outsideAny.outsideOwn i

@[simp] theorem goto_outside (i : Instr) (q : Seq) (s : State) : (goto q s).outside i = s.outside i := rfl

@[simp] theorem hold_outside (i : Instr) (d : Nat) (s : State) : (hold d s).outside i = s.outside i := rfl

@[simp] theorem accept_outside (i : Instr) (s : State) : (accept i s).outside i = s.outside i := by
  cases i <;> rfl

@[simp] theorem sample_outside (i : Instr) (l : Line) (s : State) :
    (sample l s).2.outside i = s.outside i := by
  unfold sample drawLevel
  split <;> rfl

@[simp] theorem drawGrant_outside (i : Instr) (s : State) :
    (drawGrant s).2.outside i = s.outside i := by
  unfold drawGrant
  split <;> rfl

@[simp] theorem take_outside (i : Instr) (l : Line) (d : Dir) (s : State) :
    (take l d s).outside i = s.outside i := by
  cases l <;> rfl

@[simp] theorem raiseErr_outside (i : Instr) (e : ErrCode) (s : State) :
    (raiseErr e s).outside i = s.outside i := by
  rw [raiseErr_eq]
  rfl

/-! ### Changes confined to a command -/

/-- From `s` to `t` nothing outside the command `i` has changed, and a DHT line that was not owned is
neither acquired nor driven. -/
structure Confined (i : Instr) (s t : State) : Prop where
  outside : t.outside i = s.outside i
  dht : s.own.dht = none → t.own.dht = none ∧ t.ports.dhtOe = s.ports.dhtOe

section
variable {i : Instr} {s t u : State}

/-- A change that does not touch `OWN` or the DHT line at all. -/
theorem Confined.of_outside (h : t.outside i = s.outside i) (hown : t.own = s.own := by rfl)
    (hoe : t.ports.dhtOe = s.ports.dhtOe := by rfl) : Confined i s t :=
  ⟨h, fun hs => ⟨hown ▸ hs, hoe⟩⟩

theorem Confined.refl (i : Instr) (s : State) : Confined i s s := .of_outside rfl

theorem Confined.trans (h : Confined i s t) (h' : Confined i t u) : Confined i s u where
  outside := h'.outside.trans h.outside
  dht hs := by
    obtain ⟨ht, hoe⟩ := h.dht hs
    obtain ⟨hu, hoe'⟩ := h'.dht ht
    exact ⟨hu, hoe'.trans hoe⟩

theorem Confined.goto (h : Confined i s t) (q : Seq) : Confined i s (goto q t) :=
  ⟨(goto_outside i q t).trans h.outside, h.dht⟩

theorem Confined.raiseErr (i : Instr) (e : ErrCode) (s : State) : Confined i s (raiseErr e s) where
  outside := raiseErr_outside i e s
  dht hs := ⟨rfl, by simp only [raiseErr_ports, hs, if_true]⟩

/-- Completion with NONE is the writing of the results, then what any completion does. -/
theorem Confined.complete {f : Regs → Regs}
    (hf : ({ s with regs := f s.regs } : State).outside i = s.outside i) :
    Confined i s (complete .none f s) :=
  .trans (.of_outside hf) (.raiseErr i .none { s with regs := f s.regs })

theorem Confined.sample (i : Instr) (l : Line) (s : State) : Confined i s (sample l s).2 :=
  .of_outside (sample_outside i l s) (sample_own l s) (by rw [sample_ports])

/-- An `Acquire` of any line but the DHT line, granted or not. -/
theorem Confined.acquire {l : Line} (hl : l ≠ .dht) (d : Dir) (q : Seq) :
    Confined i s (acquire l d q s) := by
  have hdraw : Confined i s (drawGrant s).2 :=
    .of_outside (drawGrant_outside i s) (drawGrant_own s) (by rw [drawGrant_ports])
  have hdht (o : Own) : (o.set l (some d)).dht = o.dht := Own.get_set_other o (some d) hl.symm
  rcases acquire_cases l d q s with h | h <;> rw [h]
  · have htake : Confined i (drawGrant s).2 (take l d (drawGrant s).2) :=
      ⟨take_outside i l d _, fun hs => ⟨(hdht _).trans hs, by rw [take_ports_of_ne d _ hl]⟩⟩
    exact (hdraw.trans htake).goto q
  · exact hdraw.trans (.raiseErr i .lineAcq _)

end

/-! ### The primitives and the micro-actions of the serial commands (R81, R82, R85, R86, R89) -/

theorem sendMicro_confined {i : Instr} (v : Bit) (p : SendPos) (s : State)
    (hclock : ∀ b, (drive .sclk b s).outside i = s.outside i)
    (hdata : (drive .sdo v s).outside i = s.outside i) : Confined i s (sendMicro v p s) := by
  cases p with
  | clockLow | clockHigh => exact .of_outside (hclock _)
  | data => exact .of_outside hdata
  | holdLow | holdHigh => exact .of_outside (hold_outside i _ s)

theorem recvMicro_confined {i : Instr} (p : RecvPos) (s : State)
    (hclock : ∀ b, (drive .sclk b s).outside i = s.outside i) :
    Confined i s (recvMicro p s).2 := by
  cases p with
  | clockLow | clockHigh => exact .of_outside (hclock _)
  | sample => exact .sample i .sdi s
  | holdLow | holdHigh => exact .of_outside (hold_outside i _ s)

theorem sendBitMicro_confined (v : Bit) (p : SendBitPos) (s : State) :
    Confined (.sendBit v) s (sendBitMicro v p s) := by
  cases p with
  | acquireClock | acquireData => exact .acquire (by nofun) _ _
  | send p =>
    obtain ⟨q, hq⟩ := sendBitMicro_send v p s
    exact hq ▸ (sendMicro_confined v p s (fun _ => rfl) rfl).goto q
  | finish => exact .complete rfl

theorem recvBitMicro_confined (p : RecvBitPos) (s : State) :
    Confined .recvBit s (recvBitMicro p s) := by
  cases p with
  | acquireClock | acquireData => exact .acquire (by nofun) _ _
  | recv p =>
    obtain ⟨q, hq⟩ := recvBitMicro_recv p s
    exact hq ▸ (recvMicro_confined p s fun _ => rfl).goto q
  | finish b => exact .complete rfl

/-- A RecvBit of one of the two paths, after the accumulators may have taken a bit. -/
theorem pathMicro_confined (ch : BitVec 2) (path : RecvPos → AdcPos) (got : Bit → AdcPos)
    (p : RecvPos) {s s' : State} (h : Confined (.adcRead ch) s s') :
    Confined (.adcRead ch) s (pathMicro ch path got p s') := by
  obtain ⟨q, hq⟩ := pathMicro_eq_goto ch path got p s'
  exact hq ▸ (h.trans (recvMicro_confined p s' fun _ => rfl)).goto q

theorem adcMicro_confined (ch : BitVec 2) (p : AdcPos) (s : State) :
    Confined (.adcRead ch) s (adcMicro ch p s) := by
  cases p with
  | acquireSelect | acquireClock | acquireOut | acquireIn => exact .acquire (by nofun) _ _
  | selectLow | holdSelected | holdReleased => exact .of_outside rfl
  | header k p =>
    obtain ⟨q, hq⟩ := adcMicro_header ch k p s
    rw [hq]
    exact (sendMicro_confined (headerBit ch s.params.adcDcBit k) p s (fun _ => rfl) rfl).goto q
  | startMsb => exact pathMicro_confined ch (.msbPath 0) (.msbGot 0) .clockLow (.of_outside rfl)
  | sharedGot b => exact pathMicro_confined ch (.lsbPath 0) (.lsbGot 0) .clockLow (.of_outside rfl)
  | msbPath k p | lsbPath k p => exact pathMicro_confined ch _ _ p (.refl _ s)
  | msbGot k b =>
    have hfold : Confined (.adcRead ch) s (foldMsb b s) := .of_outside rfl
    simp only [adcMicro]
    split
    · exact pathMicro_confined ch _ _ _ hfold
    · exact (hfold.trans (.sample _ .sdi _)).goto _
  | lsbGot k b =>
    simp only [adcMicro]
    split
    · exact pathMicro_confined ch _ _ _ (.of_outside rfl)
    · exact .of_outside rfl
  | finish =>
    simp only [adcMicro]
    split
    · exact .complete rfl
    · exact .raiseErr _ _ s

/-- The commands that use the bit-clock transport (R85, R86, R89). -/
def IsSerial (i : Instr) : Prop :=
  i = .recvBit ∨ (∃ v, i = .sendBit v) ∨ ∃ ch, i = .adcRead ch

theorem micro_confined {q : Seq} {i : Instr} (hq : runningCommand q = some i) (hi : IsSerial i)
    (s : State) : Confined i s (micro q s) := by
  cases q with
  | sendBit v p =>
    cases hq
    exact sendBitMicro_confined v p s
  | recvBit p =>
    cases hq
    exact recvBitMicro_confined p s
  | adcRead ch p =>
    cases hq
    exact adcMicro_confined ch p s
  | idle => cases hq
  | dhtRead | keypadRun | tiltRun | slideRun =>
    cases hq
    simp [IsSerial] at hi

/-- A serial command that is accepted or performs a micro-action changes nothing outside it. -/
theorem exec_confined {i : Instr} {s t : State} (hi : IsSerial i)
    (hrun : s.seq = .idle ∨ runningCommand s.seq = some i) (h : exec i s = .next t) :
    Confined i s t := by
  rcases hrun with hidle | hrun
  · cases (exec_accept hidle).symm.trans h
    exact .of_outside (accept_outside i s)
  · cases (exec_eq_micro hrun).symm.trans h
    exact micro_confined hrun hi s

/-! ### What the equation says field by field -/

section
variable {i : Instr} {s t : State}

/-- Only RECV_BIT writes `RXBIT` (R86). -/
theorem rxbit_of_outside (h : t.outside i = s.outside i) (hi : i ≠ .recvBit) :
    t.regs.rxbit = s.regs.rxbit := by
  cases i with
  | recvBit => exact absurd rfl hi
  | sendBit | adcRead | dhtRead | keypadRun | tiltRun | slideRun =>
    exact congrArg (·.regs.rxbit) h

/-- The raw transport commands have no working registers, and neither `ADC_DATA` nor `CS_N` is
theirs (R85, R86). -/
theorem raw_of_outside (h : t.outside i = s.outside i) (hi : IsSerial i)
    (hraw : ∀ ch, i ≠ .adcRead ch) :
    t.regs.adcData = s.regs.adcData ∧ t.ports.csN = s.ports.csN ∧ t.work = s.work := by
  rcases hi with rfl | ⟨v, rfl⟩ | ⟨ch, rfl⟩
  case inr.inr => exact absurd rfl (hraw ch)
  all_goals exact ⟨congrArg (·.regs.adcData) h, congrArg (·.ports.csN) h, congrArg (·.work) h⟩

/-- RECV_BIT does not drive `SDO` (R86). -/
theorem sdo_of_outside (h : t.outside i = s.outside i) (hi : i = .recvBit) :
    t.ports.sdo = s.ports.sdo := by
  subst hi
  exact congrArg (·.ports.sdo) h

end

/-- Settles O57: an accepted or running command is confined to its own fields, and one turned away
changes only `CMD_REJ`. -/
theorem serialCommandsFrame : Obligations.SerialCommandsFrame := by
  unfold Obligations.SerialCommandsFrame
  intro s t i hi hexec
  by_cases hidle : s.seq = .idle ∨ runningCommand s.seq = some i
  · obtain ⟨h, hdht⟩ := exec_confined hi hidle hexec
    have hrx := rxbit_of_outside h
    have hraw := raw_of_outside h hi
    have hsdo := sdo_of_outside h
    have hoe (hs : s.own.dht = none) := (hdht hs).2
    rcases hi with rfl | ⟨v, rfl⟩ | ⟨ch, rfl⟩
    all_goals
      exact ⟨congrArg (·.regs.cmd) h, congrArg (·.regs.cancel) h, congrArg (·.regs.dhtData) h,
        congrArg (·.regs.dhtCsum) h, congrArg (·.regs.keyNew) h, congrArg (·.regs.keyCur) h,
        congrArg (·.regs.evCount) h, congrArg (·.regs.status.keyEvt) h,
        congrArg (·.regs.status.keyOvr) h, congrArg (·.regs.status.swEvt) h,
        fun _ => congrArg (·.regs.status.cmdRej) h, hrx, hraw, hsdo, congrArg (·.ports.dhtO) h,
        congrArg (·.ports.krow) h, congrArg (·.ports.ind0) h, congrArg (·.ports.ind1) h, hoe,
        congrArg (fun u => { u.work with msb := t.work.msb, lsb := t.work.lsb }) h,
        congrArg (fun u =>
          { u.env with levels := t.env.levels, grants := t.env.grants, drawn := t.env.drawn }) h,
        congrArg (·.params) h⟩
  · obtain ⟨hne, hrun⟩ := not_or.mp hidle
    cases (exec_other hne hrun).symm.trans hexec
    exact ⟨rfl, rfl, rfl, rfl, rfl, rfl, rfl, rfl, rfl, rfl, fun h => absurd h hidle, fun _ => rfl,
      fun _ => ⟨rfl, rfl, rfl⟩, fun _ => rfl, rfl, rfl, rfl, rfl, fun _ => rfl, rfl, rfl, rfl⟩

end Sys2Proof.Machine

/-! SUPPORT. The bit-clock transport: where `SDO` is driven, the micro-actions of the two primitives, and
whole runs of SEND_BIT and RECV_BIT. -/

namespace Sys2Proof.Machine

/-! ### Where `SDO` is driven (R81, R83) -/

/-- Only SEND_BIT and ADC_READ own `SDO` (R85, R90). -/
theorem ownAt_sdo {q : Seq} (h : (ownAt q).get .sdo = some .output) :
    (∃ v p, q = .sendBit v p) ∨ ∃ ch p, q = .adcRead ch p := by
  cases q with
  | sendBit v p => exact .inl ⟨v, p, rfl⟩
  | adcRead ch p => exact .inr ⟨ch, p, rfl⟩
  | idle => cases h
  | recvBit p | dhtRead p | keypadRun p | tiltRun p | slideRun _ _ p => cases p <;> cases h

theorem DrivesOnlyOwned.sdo {o : Own} {p p' : Ports} (h : DrivesOnlyOwned o p p')
    (ho : o.get .sdo = none) : p'.sdo = p.sdo := by
  by_contra hne
  cases ho.symm.trans (h .sdo fun he => hne (Option.some.inj he))

theorem acquire_sdo (l : Line) (d : Dir) (q : Seq) (s : State) :
    (acquire l d q s).ports.sdo = s.ports.sdo :=
  (acquire_drivesOnlyOwned Own.empty l d q s).sdo rfl

theorem complete_sdo (e : ErrCode) (f : Regs → Regs) (s : State) :
    (complete e f s).ports.sdo = s.ports.sdo :=
  (complete_drivesOnlyOwned Own.empty e f s).sdo rfl

theorem pathMicro_sdo (ch : BitVec 2) (path : RecvPos → AdcPos) (got : Bit → AdcPos) (p : RecvPos)
    (s : State) : (pathMicro ch path got p s).ports.sdo = s.ports.sdo :=
  (pathMicro_drivesOnlyOwned (o := recvBitOwn (.recv p)) ch path got p s rfl).sdo rfl

/-- SEND_BIT changes `SDO` at one position only. -/
theorem sendBitMicro_sdo (v : Bit) (p : SendBitPos) (s : State) :
    p = .send .data ∨ (sendBitMicro v p s).ports.sdo = s.ports.sdo := by
  cases p with
  | acquireClock | acquireData => exact .inr (acquire_sdo _ _ _ s)
  | send p =>
    cases p with
    | data => exact .inl rfl
    | clockLow | holdLow | clockHigh | holdHigh => exact .inr rfl
  | finish => exact .inr (complete_sdo _ _ s)

/-- ADC_READ changes `SDO` at the data level of a header bit only. -/
theorem adcMicro_sdo (ch : BitVec 2) (p : AdcPos) (s : State) :
    (∃ k, p = .header k .data) ∨ (adcMicro ch p s).ports.sdo = s.ports.sdo := by
  cases p with
  | acquireSelect | acquireClock | acquireOut | acquireIn => exact .inr (acquire_sdo _ _ _ s)
  | selectLow | holdSelected | holdReleased => exact .inr rfl
  | header k p =>
    cases p with
    | data => exact .inl ⟨k, rfl⟩
    | clockLow | holdLow | clockHigh | holdHigh => exact .inr rfl
  | startMsb => exact .inr (pathMicro_sdo ch (.msbPath 0) (.msbGot 0) .clockLow { s with work := _ })
  | sharedGot => exact .inr (pathMicro_sdo ch (.lsbPath 0) (.lsbGot 0) .clockLow { s with work := _ })
  | msbPath k p | lsbPath k p => exact .inr (pathMicro_sdo ch _ _ p s)
  | msbGot k b =>
    simp only [adcMicro]
    split
    · exact .inr (pathMicro_sdo ch _ _ _ _)
    · exact .inr (congrArg Ports.sdo (sharedMicro_ports ch (foldMsb b s)))
  | lsbGot k b =>
    simp only [adcMicro]
    split
    · exact .inr (pathMicro_sdo ch _ _ _ _)
    · exact .inr rfl
  | finish =>
    simp only [adcMicro]
    split
    · exact .inr (complete_sdo _ _ s)
    · exact .inr (complete_sdo _ id s)

/-- A micro-action that changes `SDO` drives the data level of a SendBit: it stands in the low phase, and
leaves `SCLK` as it is. -/
theorem micro_sdo {q : Seq} {s : State} (h : (micro q s).ports.sdo ≠ s.ports.sdo) :
    clockLowAt q = true ∧ (micro q s).ports.sclk = s.ports.sclk := by
  have hown := micro_drivesOnlyOwned q s .sdo fun he => h (Option.some.inj he)
  rcases ownAt_sdo hown with ⟨v, p, rfl⟩ | ⟨ch, p, rfl⟩
  · obtain rfl := (sendBitMicro_sdo v p s).resolve_right h
    exact ⟨rfl, rfl⟩
  · obtain ⟨k, rfl⟩ := (adcMicro_sdo ch p s).resolve_right h
    exact ⟨rfl, rfl⟩

/-- Settles O25: only the data level of a SendBit changes `SDO`, and there the invariant has `SCLK` at 0. -/
theorem sdoChangesOnlyInTheLowPhase : Obligations.SdoChangesOnlyInTheLowPhase := by
  unfold Obligations.SdoChangesOnlyInTheLowPhase
  intro s t hinv hrst hstep hsdo
  rcases step_cases hstep with ⟨-, rfl⟩ | ⟨-, hhost⟩ | ⟨hreset, -⟩
  · have hports := drawTurn_ports s
    rw [← hports] at hsdo
    obtain ⟨hlow, hclock⟩ := micro_sdo hsdo
    have hzero : s.ports.sclk = 0 := by rw [hinv.clock, hlow, if_pos rfl]
    exact ⟨hzero, by rw [hclock, hports, hzero]⟩
  · have hports := hostTurn_ports (drawTurn_inv hinv).busy hhost
    rw [hports, drawTurn_ports] at hsdo
    exact absurd rfl hsdo
  · exact absurd hreset hrst

/-! ### The micro-actions of the primitives (R81, R82) -/

/-- Settles O31: each position performs its micro-action. -/
theorem sendBitMicroActions : Obligations.SendBitMicroActions := by
  unfold Obligations.SendBitMicroActions
  intro s v
  exact ⟨fun hs => exec_at hs rfl, fun hs => exec_at hs rfl, fun hs => exec_at hs rfl,
    fun hs => exec_at hs rfl, fun hs => exec_at hs rfl⟩

/-- The sample of RecvBit with a queued answer. -/
theorem recvBitMicro_sample {s : State} {b : Bit} {ls : List Bit} (h : s.env.levels = b :: ls) :
    recvBitMicro (.recv .sample) s =
      goto (.recvBit (.recv (.clockHigh b))) { s with env := { s.env with levels := ls } } := by
  simp only [recvBitMicro, recvMicro, sample_cons h]

/-- Settles O32: each position performs its micro-action, and the one sample draws the queued answer. -/
theorem recvBitMicroActions : Obligations.RecvBitMicroActions := by
  unfold Obligations.RecvBitMicroActions
  intro s b ls
  exact ⟨fun hs => exec_at hs rfl, fun hs => exec_at hs rfl,
    fun hs h => (exec_at hs rfl).trans (congrArg _ (recvBitMicro_sample h)),
    fun hs => exec_at hs rfl, fun hs => exec_at hs rfl⟩

/-! ### Whole commands (R85, R86, R130, R152) -/

/-- A completion with NONE of a command that does not own the DHT line moves no port. -/
theorem complete_none_eq {f : Regs → Regs} {s : State} (hdht : s.own.dht = none) :
    complete .none f s =
      { s with regs := endRegs .none (f s.regs), seq := .idle, own := Own.empty } := by
  simp only [complete, releaseAll, hdht, endRegs]

/-- Settles O35: the last micro-action of either command is its completion with NONE. -/
theorem transportCommandsComplete : Obligations.TransportCommandsComplete := by
  unfold Obligations.TransportCommandsComplete
  intro s v b hdht
  exact ⟨fun hs => (exec_at hs rfl).trans (congrArg _ (complete_none_eq hdht)),
    fun hs => (exec_at hs rfl).trans (congrArg _ (complete_none_eq hdht))⟩

/-- Acceptance and the two acquisitions of a command that acquires `SCLK` and then one data line. -/
theorem execN_acquireClockAndData {i : Instr} {s : State} {l : Line} {d : Dir} {gs : List Grant}
    (hs : s.seq = .idle) (hgrants : s.env.grants = .ok :: .ok :: gs)
    (hclock : acquiresAt (startOf i) = some (.sclk, .output))
    (hdata : acquiresAt (onceGranted (startOf i)) = some (l, d)) :
    execN 3 i s = .next
      (goto (onceGranted (onceGranted (startOf i)))
        (take l d (take .sclk .output { accept i s with env := { s.env with grants := gs } }))) := by
  have hrun := runningCommand_startOf i
  refine (execN_succ (exec_accept hs)).trans ?_
  refine (execN_succ (exec_granted (q := startOf i) rfl hrun hclock (by exact hgrants))).trans ?_
  exact execN_succ (exec_granted (q := onceGranted (startOf i)) rfl
    ((runningCommand_onceGranted _).trans hrun) hdata rfl)

/-- A whole SendBit: the bit on `SDO` and one clock period (R81). -/
theorem execN_sendBit {s : State} {v : Bit} (hs : s.seq = .sendBit v (.send .clockLow)) :
    execN 5 (.sendBit v) s = .next
      { s with
        ports := { s.ports with sclk := 1, sdo := v }
        held := s.held + s.params.tHold + s.params.tHold
        seq := .sendBit v .finish } := by
  refine (execN_micro hs rfl).trans ?_
  refine (execN_micro rfl rfl).trans ?_
  refine (execN_micro rfl rfl).trans ?_
  refine (execN_micro rfl rfl).trans ?_
  exact execN_micro rfl rfl

/-- A whole RecvBit: one sample and one clock period (R82). -/
theorem execN_recvBit {s : State} {b : Bit} {ls : List Bit}
    (hs : s.seq = .recvBit (.recv .clockLow)) (hls : s.env.levels = b :: ls) :
    execN 5 .recvBit s = .next
      { s with
        ports := { s.ports with sclk := 1 }
        env := { s.env with levels := ls }
        held := s.held + s.params.tHold + s.params.tHold
        seq := .recvBit (.finish b) } := by
  have hsample (t : State) (ht : t.seq = .recvBit (.recv .sample)) (hlevels : t.env.levels = b :: ls) :=
    (exec_at ht rfl).trans (congrArg _ (recvBitMicro_sample hlevels))
  refine (execN_micro hs rfl).trans ?_
  refine (execN_micro rfl rfl).trans ?_
  refine (execN_succ (hsample _ rfl (by exact hls))).trans ?_
  refine (execN_micro rfl rfl).trans ?_
  exact execN_micro rfl rfl

/-- Settles O33: acceptance and acquisition, the five micro-actions of SendBit, and the completion. -/
theorem sendBitWholeRun : Obligations.SendBitWholeRun := by
  unfold Obligations.SendBitWholeRun
  intro s v gs hs hown hgrants
  have hheld : 2 * s.params.tHold = 0 + s.params.tHold + s.params.tHold := by omega
  have hdht : s.own.dht = none := by rw [hown]; rfl
  have hacquired := execN_acquireClockAndData (i := .sendBit v) hs hgrants rfl rfl
  rw [hs, hown, hheld]
  refine (execN_add (k := 6) hacquired).trans ?_
  refine (execN_add (k := 1) (execN_sendBit rfl)).trans ?_
  exact execN_succ ((transportCommandsComplete _ v 0 (by exact hdht)).1 rfl)

/-- Settles O34: acceptance and acquisition, the five micro-actions of RecvBit, and the completion with
the bit. -/
theorem recvBitWholeRun : Obligations.RecvBitWholeRun := by
  unfold Obligations.RecvBitWholeRun
  intro s b ls gs hs hown hgrants hls
  have hheld : 2 * s.params.tHold = 0 + s.params.tHold + s.params.tHold := by omega
  have hdht : s.own.dht = none := by rw [hown]; rfl
  have hacquired := execN_acquireClockAndData (i := .recvBit) hs hgrants rfl rfl
  rw [hs, hown, hheld]
  refine (execN_add (k := 6) hacquired).trans ?_
  refine (execN_add (k := 1) (execN_recvBit rfl (by exact hls))).trans ?_
  exact execN_succ ((transportCommandsComplete _ 0 b (by exact hdht)).2 rfl)

end Sys2Proof.Machine

/-! SUPPORT. The validator of ADC_READ. -/

namespace Sys2Proof.Machine

/-- Settles O38: the last micro-action of ADC_READ compares the two paths. -/
theorem adcValidatorDecides : Obligations.AdcValidatorDecides := by
  unfold Obligations.AdcValidatorDecides
  intro s ch hs hdht
  rw [exec_adcFinish hs hdht]
  constructor
  · intro hagree
    rw [if_pos hagree]
    rfl
  · intro hdisagree
    rw [if_neg hdisagree]
    rfl

end Sys2Proof.Machine

/-! SUPPORT. DHT_READ in single micro-actions: the wait that times out, the count a wait returns, the end
that the checksum decides, and what the command leaves unchanged. -/

namespace Sys2Proof.Machine

/-! ### A WaitLevel returns its count or times out (R98) -/

/-- The levels of the handshake, by the index of the wait (R100). -/
theorem handshakeLevel_eq (k : Fin 3) : handshakeLevel k = if k = 1 then 0 else 1 := by
  revert k; decide

/-- The poll that comes after `N_WAIT` polls raises TIMEOUT. -/
theorem exec_timeout {site : WaitSite} {s : State}
    (hs : s.seq = .dhtRead (.wait site (.poll s.params.nWait))) :
    exec .dhtRead s = .next (raiseErr .timeout s) := by
  rw [exec_at hs rfl]
  exact congrArg _ (if_neg (lt_irrefl _))

/-- A WaitLevel that misses `N_WAIT` times raises TIMEOUT after that many samples and holds. -/
theorem execN_waitTimeout {site : WaitSite} {s : State}
    (hs : s.seq = .dhtRead (.wait site (.poll 0))) {ls : List Bit}
    (hls : s.env.levels = List.replicate s.params.nWait (~~~site.level) ++ ls) :
    execN (2 * s.params.nWait + 1) .dhtRead s = .next (raiseErr .timeout
      { s with
        held := s.held + s.params.nWait * s.params.tPoll
        env := { s.env with levels := ls }
        seq := .dhtRead (.wait site (.poll s.params.nWait)) }) := by
  rw [execN_add (execN_missedPolls hs le_rfl hls)]
  exact execN_succ (exec_timeout rfl)

/-- No wait follows itself. -/
theorem WaitSite.next_ne_self (site : WaitSite) : site.next ≠ some site := by
  cases site with
  | handshake k => revert k; decide
  | fall k j => exact fun h => nomatch h
  | rise k j => revert k j; decide

@[simp] theorem pollMicro_held (site : WaitSite) (i : Nat) (s : State) :
    (pollMicro site i s).held = s.held := by
  rcases pollMicro_cases site i s with ⟨h, -⟩ | ⟨h, -⟩ <;> simp [h]

@[simp] theorem dhtFinish_held (s : State) : (dhtFinish s).held = s.held := by
  rcases dhtFinish_cases s with ⟨h, -⟩ | ⟨h, -⟩ <;> simp [h]

@[simp] theorem dhtFinish_seq (s : State) : (dhtFinish s).seq = .idle := by
  rcases dhtFinish_cases s with ⟨h, -⟩ | ⟨h, -⟩ <;> simp [h]

/-- A poll leaves DHT_READ in its own wait, or idle. -/
theorem pollMicro_seq_ne {site site' : WaitSite} (h : site' ≠ site) (i : Nat) (s : State) (p : WaitPos) :
    (pollMicro site' i s).seq ≠ .dhtRead (.wait site p) := by
  rcases pollMicro_cases site' i s with ⟨e, -⟩ | ⟨e, -⟩ <;> simp [e, h]

/-- The return of a WaitLevel stores the count, holds nothing, and leaves the wait (R38, R98). -/
theorem afterWait_returns (site : WaitSite) (n : Nat) (s : State) :
    (afterWait site n s).work.n = BitVec.ofNat 8 n ∧ (afterWait site n s).held = s.held ∧
      ∀ p, (afterWait site n s).seq ≠ .dhtRead (.wait site p) := by
  rcases afterWait_cases site n s with ⟨site', f, y, hnext, e⟩ | ⟨f, y, -, e⟩ <;> rw [e]
  · have hne : site' ≠ site := fun h => site.next_ne_self (h ▸ hnext)
    exact ⟨by rw [pollMicro_work], by rw [pollMicro_held], pollMicro_seq_ne hne 0 _⟩
  · exact ⟨by rw [dhtFinish_work], by rw [dhtFinish_held], by simp⟩

/-- Settles O41: the polls that miss lead to the last sample or to the timeout, and the micro-action that
returns the count is the first poll of the next wait. -/
theorem waitLevelCountsOrTimesOut : Obligations.WaitLevelCountsOrTimesOut := by
  unfold Obligations.WaitLevelCountsOrTimesOut
  constructor
  · intro s site level n ls hs hlevel
    obtain rfl : level = site.level := by
      cases site with
      | handshake k => exact hlevel.trans (handshakeLevel_eq k).symm
      | fall | rise => exact hlevel
    refine ⟨fun hn hls => execN_waitLevel hs hn hls, fun hls => ?_⟩
    refine ⟨_, execN_waitTimeout hs hls, rfl, rfl, rfl, rfl, rfl, ?_⟩
    intro (howned : s.own.dht ≠ none)
    rw [raiseErr_ports, if_neg (by exact howned)]
  · intro s site n hs
    refine ⟨⟨_, exec_seen hs, fun hn => ?_, (afterWait_returns site n s).2⟩, fun site' hnext => ?_⟩
    · rw [(afterWait_returns site n s).1, BitVec.toNat_ofNat, Nat.mod_eq_of_lt hn]
    · exact ⟨_, exec_waitReturn hs hnext⟩

/-! ### The end of DHT_READ (R103, R104) -/

/-- The micro-action after the last wait completes the fifth byte `c` and ends the command. -/
theorem exec_lastBit {s : State} {n : Nat} {c : Byte}
    (hs : s.seq = .dhtRead (.wait (.rise 4 7) (.seen n 1)))
    (hc : c = shiftIn s.work.byte (dhtBit (BitVec.ofNat 8 n) s.params.dhtThresh)) :
    exec .dhtRead s = .next (dhtFinish
      { s with
        work :=
          { s.work with
            n := BitVec.ofNat 8 n
            byte := c
            frame := { s.work.frame with checksum := c } } }) := by
  subst hc
  exact exec_seen (site := .rise 4 7) hs

/-- Settles O44: the last bit completes the fifth byte, and the checksum decides which of the two
completions the micro-action is. -/
theorem dhtChecksumDecides : Obligations.DhtChecksumDecides := by
  unfold Obligations.DhtChecksumDecides
  intro s n c hs hdht hn hc
  have hbyte : c = shiftIn s.work.byte (dhtBit (BitVec.ofNat 8 n) s.params.dhtThresh) := by
    rw [hc, shiftIn_eq_append, dhtBit, BitVec.toNat_ofNat, Nat.mod_eq_of_lt hn]
    rfl
  rw [exec_lastBit hs hbyte, dhtFinish_eq (by exact hdht)]
  constructor
  · intro hsum
    rw [if_pos (frameValid_iff.mpr (by exact hsum))]
    rfl
  · intro hsum
    rw [if_neg (mt frameValid_iff.mp (by exact hsum))]
    rfl

/-! ### What DHT_READ leaves unchanged (R104, R105) -/

/-- From `s` to `t` nothing outside DHT_READ has changed, and `DHT_DATA` only by a completion with NONE. -/
structure DhtFrame (s t : State) : Prop where
  outside : t.outside .dhtRead = s.outside .dhtRead
  data : t.regs.dhtData ≠ s.regs.dhtData → t.seq = .idle ∧ t.regs.status.err = .none

section
variable {s s' t : State}

/-- A change that does not touch `DHT_DATA`. -/
theorem DhtFrame.of_outside (h : t.outside .dhtRead = s.outside .dhtRead)
    (hdata : t.regs.dhtData = s.regs.dhtData) : DhtFrame s t :=
  ⟨h, fun hne => absurd hdata hne⟩

/-- What is computed before the micro-action's primitive does not touch `DHT_DATA`. -/
theorem DhtFrame.after (h : DhtFrame s' t) (hs : s'.outside .dhtRead = s.outside .dhtRead)
    (hdata : s'.regs.dhtData = s.regs.dhtData) : DhtFrame s t :=
  ⟨h.outside.trans hs, hdata ▸ h.data⟩

theorem DhtFrame.raiseErr (e : ErrCode) (s : State) : DhtFrame s (raiseErr e s) :=
  .of_outside (raiseErr_outside .dhtRead e s) (by rw [raiseErr_regs])

theorem acquire_dhtFrame (l : Line) (d : Dir) (q : Seq) (s : State) :
    DhtFrame s (acquire l d q s) := by
  have hout := drawGrant_outside .dhtRead s
  have hregs := drawGrant_regs s
  rcases acquire_cases l d q s with h | h <;> rw [h]
  · exact .of_outside (by simp [hout]) (by simp)
  · exact (DhtFrame.raiseErr .lineAcq _).after hout (by rw [hregs])

theorem pollMicro_dhtFrame (site : WaitSite) (i : Nat) (s : State) :
    DhtFrame s (pollMicro site i s) := by
  rcases pollMicro_cases site i s with ⟨h, -⟩ | ⟨h, -⟩ <;> rw [h]
  · exact .of_outside (sample_outside .dhtRead .dht s) (by simp)
  · exact .raiseErr .timeout s

theorem dhtFinish_dhtFrame (s : State) : DhtFrame s (dhtFinish s) := by
  rcases dhtFinish_cases s with ⟨h, -⟩ | ⟨h, -⟩ <;> rw [h]
  · exact ⟨(Confined.complete rfl).outside, fun _ => ⟨rfl, rfl⟩⟩
  · exact .raiseErr .checksum s

theorem dhtMicro_dhtFrame (p : DhtPos) (s : State) : DhtFrame s (dhtMicro p s) := by
  cases p with
  | acquireOut | acquireIn => exact acquire_dhtFrame ..
  | driveLow | holdLow | driveHigh | holdHigh => exact .of_outside rfl rfl
  | wait site p =>
    simp only [dhtMicro]
    rcases waitMicro_cases site p s with ⟨site', i, f, y, n, h⟩ | ⟨i, b, -, h⟩ | ⟨f, y, n, h⟩ <;>
      rw [h]
    · exact (pollMicro_dhtFrame site' i _).after rfl rfl
    · exact .of_outside rfl rfl
    · exact (dhtFinish_dhtFrame _).after rfl rfl

/-- DHT_READ accepted, or performing a micro-action. -/
theorem exec_dhtFrame (hrun : s.seq = .idle ∨ runningCommand s.seq = some .dhtRead)
    (h : exec .dhtRead s = .next t) : DhtFrame s t := by
  rcases hrun with hidle | hrun
  · cases (exec_accept hidle).symm.trans h
    exact .of_outside rfl rfl
  · cases (exec_eq_micro hrun).symm.trans h
    cases hq : s.seq with
    | dhtRead p => exact dhtMicro_dhtFrame p s
    | idle | sendBit | recvBit | adcRead | keypadRun | tiltRun | slideRun =>
      rw [hq] at hrun
      cases hrun

end

/-- Settles O58: an accepted or running DHT_READ keeps what is outside it, and one turned away changes only
`CMD_REJ`. -/
theorem dhtReadFrame : Obligations.DhtReadFrame := by
  unfold Obligations.DhtReadFrame
  intro s t hexec
  by_cases hidle : s.seq = .idle ∨ runningCommand s.seq = some .dhtRead
  · obtain ⟨h, hdata⟩ := exec_dhtFrame hidle hexec
    exact ⟨congrArg (fun u =>
        { u.regs with
          status := t.regs.status, dhtData := t.regs.dhtData, dhtCsum := t.regs.dhtCsum }) h,
      congrArg (·.regs.status.keyEvt) h, congrArg (·.regs.status.keyOvr) h,
      congrArg (·.regs.status.swEvt) h, fun _ => congrArg (·.regs.status.cmdRej) h, hdata,
      congrArg (fun u => { u.ports with dhtO := t.ports.dhtO, dhtOe := t.ports.dhtOe }) h,
      congrArg (fun u =>
        { u.work with frame := t.work.frame, byte := t.work.byte, n := t.work.n }) h,
      congrArg (fun u =>
        { u.env with levels := t.env.levels, grants := t.env.grants, drawn := t.env.drawn }) h,
      congrArg (·.params) h⟩
  · obtain ⟨hne, hrun⟩ := not_or.mp hidle
    cases (exec_other hne hrun).symm.trans hexec
    exact ⟨rfl, rfl, rfl, rfl, fun h => absurd h hidle, fun h => absurd rfl h, rfl, rfl, rfl, rfl⟩

end Sys2Proof.Machine

/-! SUPPORT. One micro-action of each tracker where it does more than move on: the end of a scan pass, an
iteration of WaitEdge, a report, a toggle, a cancelled end. -/

namespace Sys2Proof.Machine

/-! ### The end of a scan pass (R111, R112) -/

/-- The end of a pass reports the new keys, if there are any, and remembers and shows the pass. -/
theorem endOfPass_cases (s : State) :
    newKeys s.work.cur s.work.prev = 0 ∧
        endOfPass s =
          { s with
            regs := { s.regs with keyCur := s.work.cur }
            work := { s.work with prev := s.work.cur } } ∨
      newKeys s.work.cur s.work.prev ≠ 0 ∧
        endOfPass s =
          { s with
            regs := { keyEmit (newKeys s.work.cur s.work.prev) s.regs with keyCur := s.work.cur }
            work := { s.work with prev := s.work.cur } } := by
  by_cases h : newKeys s.work.cur s.work.prev = 0
  · exact .inl ⟨h, by simp only [endOfPass, h, ne_eq, not_true_eq_false, if_false]⟩
  · exact .inr ⟨h, by simp only [endOfPass, ne_eq, h, not_false_eq_true, if_true]⟩

/-- No new key is the empty set of new keys, so `KEY_NEW` always gains exactly the new ones. -/
theorem endOfPass_keyNew (s : State) :
    (endOfPass s).regs.keyNew = s.regs.keyNew ||| newKeys s.work.cur s.work.prev := by
  rcases endOfPass_cases s with ⟨hnew, h⟩ | ⟨-, h⟩ <;> rw [h]
  · rw [hnew]
    exact BitVec.or_zero.symm
  · rfl

/-- A key is new if it is in this pass and was not in the previous one. -/
theorem newKeys_getLsbD (cur prev : KeySet) (b : Nat) :
    (newKeys cur prev).getLsbD b = (cur.getLsbD b && !prev.getLsbD b) := by
  rw [newKeys, BitVec.getLsbD_and, BitVec.getLsbD_not]
  by_cases hb : b < 16
  · rw [decide_eq_true hb, Bool.true_and]
  · rw [BitVec.getLsbD_of_ge cur b (not_lt.mp hb), Bool.false_and, Bool.false_and]

/-- Settles O47: the micro-action is the end of the pass, in its two cases. -/
theorem endOfPassLatchesNewKeys : Obligations.EndOfPassLatchesNewKeys := by
  unfold Obligations.EndOfPassLatchesNewKeys
  intro s hs
  rw [exec_at hs rfl, show s.work.cur &&& ~~~s.work.prev = newKeys s.work.cur s.work.prev from rfl]
  simp only [micro, keypadMicro]
  rcases endOfPass_cases s with ⟨hnew, h⟩ | ⟨hnew, h⟩ <;> rw [h]
  · rw [if_pos hnew]
    rfl
  · rw [if_neg hnew]
    rfl

/-- Settles O48: `KEY_NEW` gains the new keys bit by bit, and the hold after the pass touches nothing. -/
theorem keyIsReportedOnFirstPassOnly : Obligations.KeyIsReportedOnFirstPassOnly := by
  unfold Obligations.KeyIsReportedOnFirstPassOnly
  refine ⟨fun s t b hs hexec => ?_, fun s hs => exec_at hs rfl⟩
  cases (exec_at hs rfl).symm.trans hexec
  refine ⟨?_, rfl, rfl⟩
  have hkeys := congrArg (·.getLsbD b) (endOfPass_keyNew s)
  rwa [BitVec.getLsbD_or, newKeys_getLsbD] at hkeys

/-! ### Iterations of WaitEdge (R114, R115) -/

section
variable {s : State} {b : Bit} {ls : List Bit}

theorem cancel_ne_one (h : s.regs.cancel = 0) : s.regs.cancel ≠ 1 := by
  rw [h]
  decide

/-- `CANCEL` is tested before the sample. -/
theorem waitEdgeMicro_cancelled (h : s.regs.cancel = 1) : waitEdgeMicro s = (.cancelled, s) :=
  if_pos h

/-- The sample is an edge if it differs from `SW_LAST`. -/
theorem waitEdgeMicro_samples (h : s.regs.cancel ≠ 1) :
    waitEdgeMicro s =
      (if (sample .swIn s).1 = s.work.swLast then .quiet else .edge (sample .swIn s).1,
        (sample .swIn s).2) := by
  simp only [waitEdgeMicro, if_neg h, sample_work]
  by_cases hb : (sample .swIn s).1 = s.work.swLast
  · rw [if_neg (not_not.mpr hb), if_pos hb]
  · rw [if_pos hb, if_neg hb]

/-- An iteration in TILT_RUN, the first one or a later one, that does not see `CANCEL`. -/
theorem tiltMicro_samples {p : TiltPos} (hp : p = .waitEdge ∨ p = .top) (h : s.regs.cancel ≠ 1) :
    tiltMicro p s =
      goto (if (sample .swIn s).1 = s.work.swLast then .tiltRun .waitEdge else .tiltRun .settleHold)
        (sample .swIn s).2 := by
  have hwait := waitEdgeMicro_samples h
  by_cases hb : (sample .swIn s).1 = s.work.swLast
  · rw [if_pos hb] at hwait ⊢
    rcases hp with rfl | rfl <;> simp only [tiltMicro, hwait]
  · rw [if_neg hb] at hwait ⊢
    rcases hp with rfl | rfl <;> simp only [tiltMicro, hwait]

/-- An iteration in SLIDE_RUN, the first one or a later one, that does not see `CANCEL`. -/
theorem slideMicro_samples {i0 i1 : Bit} {p : SlidePos} (hp : p = .waitEdge ∨ p = .top)
    (h : s.regs.cancel ≠ 1) :
    slideMicro i0 i1 p s =
      goto
        (if (sample .swIn s).1 = s.work.swLast then .slideRun i0 i1 .waitEdge
          else .slideRun i0 i1 (.toggle (sample .swIn s).1))
        (sample .swIn s).2 := by
  have hwait := waitEdgeMicro_samples h
  by_cases hb : (sample .swIn s).1 = s.work.swLast
  · rw [if_pos hb] at hwait ⊢
    rcases hp with rfl | rfl <;> simp only [slideMicro, hwait]
  · rw [if_neg hb] at hwait ⊢
    rcases hp with rfl | rfl <;> simp only [slideMicro, hwait]

/-- A tilt tracker whose first iteration sees `CANCEL` ends (R116, R117). -/
theorem tiltMicro_top_cancelled (h : s.regs.cancel = 1) : tiltMicro .top s = complete .none id s := by
  simp only [tiltMicro, waitEdgeMicro_cancelled h]

theorem tiltMicro_waitEdge_cancelled (h : s.regs.cancel = 1) :
    tiltMicro .waitEdge s = goto (.tiltRun .cancelled) s := by
  simp only [tiltMicro, waitEdgeMicro_cancelled h]

/-- A slide tracker whose first iteration sees `CANCEL` ends (R116, R120). -/
theorem slideMicro_top_cancelled {i0 i1 : Bit} (h : s.regs.cancel = 1) :
    slideMicro i0 i1 .top s = complete .none id s := by
  simp only [slideMicro, waitEdgeMicro_cancelled h]

theorem slideMicro_waitEdge_cancelled {i0 i1 : Bit} (h : s.regs.cancel = 1) :
    slideMicro i0 i1 .waitEdge s = goto (.slideRun i0 i1 .cancelled) s := by
  simp only [slideMicro, waitEdgeMicro_cancelled h]

/-- An iteration in TILT_RUN with the sample `b`. -/
theorem exec_tiltIteration (hs : s.seq = .tiltRun .waitEdge ∨ s.seq = .tiltRun .top)
    (h : s.regs.cancel = 0) (hls : s.env.levels = b :: ls) :
    exec .tiltRun s = .next
      { s with
        env := { s.env with levels := ls }
        seq := if b = s.work.swLast then .tiltRun .waitEdge else .tiltRun .settleHold } := by
  obtain ⟨p, hp, hq⟩ : ∃ p : TiltPos, (p = .waitEdge ∨ p = .top) ∧ s.seq = .tiltRun p :=
    hs.elim (fun e => ⟨_, .inl rfl, e⟩) fun e => ⟨_, .inr rfl, e⟩
  rw [exec_at hq rfl, micro, tiltMicro_samples hp (cancel_ne_one h), sample_cons hls]
  rfl

/-- A sample at the reference gives another iteration. -/
theorem exec_tiltQuiet (hs : s.seq = .tiltRun .waitEdge ∨ s.seq = .tiltRun .top)
    (h : s.regs.cancel = 0) (hls : s.env.levels = b :: ls) (hb : b = s.work.swLast) :
    exec .tiltRun s = .next { s with env := { s.env with levels := ls }, seq := .tiltRun .waitEdge } := by
  rw [exec_tiltIteration hs h hls, if_pos hb]

/-- An iteration in SLIDE_RUN with the sample `b`. -/
theorem exec_slideIteration {i0 i1 : Bit}
    (hs : s.seq = .slideRun i0 i1 .waitEdge ∨ s.seq = .slideRun i0 i1 .top)
    (h : s.regs.cancel = 0) (hls : s.env.levels = b :: ls) :
    exec (.slideRun i0 i1) s = .next
      { s with
        env := { s.env with levels := ls }
        seq :=
          if b = s.work.swLast then .slideRun i0 i1 .waitEdge
          else .slideRun i0 i1 (.toggle b) } := by
  obtain ⟨p, hp, hq⟩ : ∃ p : SlidePos, (p = .waitEdge ∨ p = .top) ∧ s.seq = .slideRun i0 i1 p :=
    hs.elim (fun e => ⟨_, .inl rfl, e⟩) fun e => ⟨_, .inr rfl, e⟩
  rw [exec_at hq rfl, micro, slideMicro_samples hp (cancel_ne_one h), sample_cons hls]
  rfl

end

/-- Settles O49: the iterations that see `CANCEL` take no sample, and the others go where the sample
says. -/
theorem waitEdgeIteration : Obligations.WaitEdgeIteration := by
  unfold Obligations.WaitEdgeIteration
  intro s i0 i1 b ls
  refine ⟨fun hc hs => ?_, fun hc hs => ?_, fun hc hs => ?_, fun hc hs => ?_,
    fun hc hls => ⟨fun hs => exec_tiltIteration hs hc hls, fun hs => exec_slideIteration hs hc hls⟩⟩
  · exact (exec_at hs rfl).trans (congrArg _ (tiltMicro_waitEdge_cancelled hc))
  · exact (exec_at hs rfl).trans (congrArg _ (slideMicro_waitEdge_cancelled hc))
  · exact ⟨_, (exec_at hs rfl).trans (congrArg _ (tiltMicro_top_cancelled hc)), rfl, rfl, rfl⟩
  · exact ⟨_, (exec_at hs rfl).trans (congrArg _ (slideMicro_top_cancelled hc)), rfl, rfl, rfl⟩

/-! ### The end of a cancelled tracker (R116, R130, R135) -/

/-- The whole state after a completion with NONE and no results, with the DHT line not owned. -/
theorem complete_none_id {s : State} (h : s.own.dht = none) :
    complete .none id s =
      { s with
        regs := { s.regs with status := { s.regs.status with busy := 0, done := 1, err := .none } }
        seq := .idle
        own := Own.empty } := by
  have hend := raiseErr_eq .none s
  rwa [if_pos h] at hend

theorem keypadMicro_top_cancelled {s : State} (h : s.regs.cancel = 1) :
    keypadMicro .top s = complete .none id s :=
  if_pos h

/-- Settles O50: in each of these positions the micro-action is the completion with NONE. -/
theorem cancelledTrackersCompleteWithNone : Obligations.CancelledTrackersCompleteWithNone := by
  unfold Obligations.CancelledTrackersCompleteWithNone
  intro s i0 i1 hdht
  rw [← complete_none_id hdht]
  refine ⟨?_, ?_, ?_⟩
  · rintro ⟨hc, hs⟩
    exact (exec_at hs rfl).trans (congrArg _ (keypadMicro_top_cancelled hc))
  · rintro (⟨hc, hs⟩ | hs)
    · exact (exec_at hs rfl).trans (congrArg _ (tiltMicro_top_cancelled hc))
    · exact exec_at hs rfl
  · rintro (⟨hc, hs⟩ | hs)
    · exact (exec_at hs rfl).trans (congrArg _ (slideMicro_top_cancelled hc))
    · exact exec_at hs rfl

/-! ### Starts, reports and toggles (R117 to R121) -/

/-- The event count is modulo 256 (R118). -/
theorem ofNat_succ_mod (c : Byte) : BitVec.ofNat 8 ((c.toNat + 1) % 256) = c + 1 :=
  BitVec.eq_of_toNat_eq (by simp [BitVec.toNat_add])

/-- Settles O52: the drives and the count of TiltReport, one after the other. -/
theorem tiltReportShowsTheSettledLevel : Obligations.TiltReportShowsTheSettledLevel := by
  unfold Obligations.TiltReportShowsTheSettledLevel
  intro s v hs
  rw [ofNat_succ_mod]
  exact exec_at hs rfl

/-- The toggle of an edge with level `e`. -/
theorem exec_toggle {s : State} {i0 i1 e : Bit} (hs : s.seq = .slideRun i0 i1 (.toggle e)) :
    exec (.slideRun i0 i1) s = .next
      { s with
        work := { s.work with swLast := e }
        ports := { s.ports with ind0 := ~~~s.ports.ind0, ind1 := ~~~s.ports.ind1 }
        regs :=
          { s.regs with
            evCount := s.regs.evCount + 1
            status := { s.regs.status with swEvt := 1 } }
        seq := .slideRun i0 i1 .top } :=
  exec_at hs rfl

/-- Settles O54: the drives and the count of SlideToggle, one after the other. -/
theorem slideToggleInvertsBothIndicators : Obligations.SlideToggleInvertsBothIndicators := by
  unfold Obligations.SlideToggleInvertsBothIndicators
  intro s i0 i1 e hs
  rw [ofNat_succ_mod]
  exact exec_toggle hs

theorem firstReference_cons {s : State} {b : Bit} {ls : List Bit} (h : s.env.levels = b :: ls) :
    firstReference s =
      { s with env := { s.env with levels := ls }, work := { s.work with swLast := b } } := by
  rw [firstReference, sample_cons h]
  rfl

/-- Settles O56: both drives are one micro-action, and the first reference is the sample. -/
theorem switchTrackersStart : Obligations.SwitchTrackersStart := by
  unfold Obligations.SwitchTrackersStart
  intro s i0 i1 b ls
  refine ⟨fun hs => exec_at hs rfl, fun hs hls => ?_, fun hs hls => ?_⟩
  · rw [exec_at hs rfl, micro, slideMicro, firstReference_cons hls]
    rfl
  · rw [exec_at hs rfl, micro, tiltMicro, firstReference_cons hls]
    rfl

/-! ### Runs of several events (R115, R119, R121) -/

/-- The sample after the settle hold is the level that is reported (R117). -/
theorem exec_settledSample {s : State} {v : Bit} {ls : List Bit} (hs : s.seq = .tiltRun .settledSample)
    (hls : s.env.levels = v :: ls) :
    exec .tiltRun s = .next
      { s with env := { s.env with levels := ls }, seq := .tiltRun (.report v) } := by
  rw [exec_at hs rfl, micro, tiltMicro, sample_cons hls]
  rfl

/-- From a wake to the top of the loop: the settle hold and its sample `v`, the report of `v` and its
hold (R117, R118). -/
theorem execN_settleAndReport {s : State} {v : Bit} {ls : List Bit}
    (hs : s.seq = .tiltRun .settleHold) (hls : s.env.levels = v :: ls) :
    execN 4 .tiltRun s = .next
      { s with
        work := { s.work with swLast := v }
        ports := { s.ports with ind0 := v, ind1 := ~~~v }
        regs :=
          { s.regs with
            evCount := s.regs.evCount + 1
            status := { s.regs.status with swEvt := 1 } }
        env := { s.env with levels := ls }
        held := s.held + s.params.tTiltSettle + s.params.tTiltHold
        seq := .tiltRun .top } := by
  refine (execN_micro hs rfl).trans ?_
  refine Eq.trans (execN_succ (exec_settledSample rfl hls)) ?_
  refine (execN_micro rfl rfl).trans ?_
  exact execN_micro rfl rfl

/-- Settles O53: a wake, its report, and a first iteration whose sample is the reported level. -/
theorem tiltBounceGivesOneReport : Obligations.TiltBounceGivesOneReport := by
  unfold Obligations.TiltBounceGivesOneReport
  intro s e v ls hs hc he hls
  rw [execN_succ (exec_tiltIteration (.inl hs) hc hls), if_neg he,
    execN_add (j := 4) (k := 1) (execN_settleAndReport rfl rfl)]
  exact execN_succ (exec_tiltQuiet (.inr rfl) hc rfl rfl)

/-- One inversion more is one step in the parity. -/
theorem not_xor_parity (b : Bit) (m : Nat) :
    ~~~b ^^^ BitVec.ofNat 1 (m % 2) = b ^^^ BitVec.ofNat 1 ((m + 1) % 2) := by
  have hflip (b : Bit) : ~~~b ^^^ 0#1 = b ^^^ 1#1 ∧ ~~~b ^^^ 1#1 = b ^^^ 0#1 := by
    revert b
    decide
  rcases Nat.mod_two_eq_zero_or_one m with h | h
  · rw [Nat.add_mod, h]
    exact (hflip b).1
  · rw [Nat.add_mod, h]
    exact (hflip b).2

/-- The block after one edge and its toggle, with `ls` still to be sampled (R121). -/
def State.afterEdge (s : State) (ls : List Bit) : State :=
  { s with
    work := { s.work with swLast := ~~~s.work.swLast }
    ports := { s.ports with ind0 := ~~~s.ports.ind0, ind1 := ~~~s.ports.ind1 }
    regs :=
      { s.regs with evCount := s.regs.evCount + 1, status := { s.regs.status with swEvt := 1 } }
    env := { s.env with levels := ls } }

/-- An edge is two micro-actions, back at the top of the loop. -/
theorem execN_edge {s : State} {i0 i1 : Bit} {ls : List Bit} (hs : s.seq = .slideRun i0 i1 .top)
    (hc : s.regs.cancel = 0) (hls : s.env.levels = ~~~s.work.swLast :: ls) :
    execN 2 (.slideRun i0 i1) s = .next (s.afterEdge ls) := by
  have hedge := exec_slideIteration (.inr hs) hc hls
  rw [if_neg (not_bit_ne _)] at hedge
  rw [execN_succ hedge, execN_succ (exec_toggle rfl), State.afterEdge, hs]
  rfl

/-- From `s` to `t` a slide tracker has toggled `m` times (R121). -/
structure Toggled (m : Nat) (s t : State) : Prop where
  seq : t.seq = s.seq
  ind0 : t.ports.ind0 = s.ports.ind0 ^^^ BitVec.ofNat 1 (m % 2)
  ind1 : t.ports.ind1 = s.ports.ind1 ^^^ BitVec.ofNat 1 (m % 2)
  swLast : t.work.swLast = s.work.swLast ^^^ BitVec.ofNat 1 (m % 2)
  evCount : t.regs.evCount = s.regs.evCount + BitVec.ofNat 8 m

theorem Toggled.zero (s : State) : Toggled 0 s s := by
  constructor <;> simp

/-- A toggle before `m` others. -/
theorem Toggled.succ {m : Nat} {s t : State} {ls : List Bit} (h : Toggled m (s.afterEdge ls) t) :
    Toggled (m + 1) s t where
  seq := h.seq
  ind0 := h.ind0.trans (not_xor_parity _ m)
  ind1 := h.ind1.trans (not_xor_parity _ m)
  swLast := h.swLast.trans (not_xor_parity _ m)
  evCount := by
    rw [h.evCount, Nat.add_comm m 1, BitVec.ofNat_add, ← BitVec.add_assoc]
    rfl

/-- A run of `m` edges is `m` toggles, each of two micro-actions. -/
theorem execN_edges {i0 i1 : Bit} {ls : List Bit} (m : Nat) {s : State}
    (hs : s.seq = .slideRun i0 i1 .top) (hc : s.regs.cancel = 0)
    (hls : s.env.levels = edges s.work.swLast m ++ ls) :
    ∃ t, execN (2 * m) (.slideRun i0 i1) s = .next t ∧ Toggled m s t ∧ t.env.levels = ls := by
  induction m generalizing s with
  | zero => exact ⟨s, rfl, .zero s, hls⟩
  | succ m ih =>
    rw [Nat.mul_succ, Nat.add_comm, execN_add (execN_edge hs hc hls)]
    obtain ⟨t, hrun, htoggled, hrest⟩ :=
      ih (s := s.afterEdge (edges (~~~s.work.swLast) m ++ ls)) hs hc rfl
    exact ⟨t, hrun, htoggled.succ, hrest⟩

/-- Settles O55, by induction on the number of edges. -/
theorem slideTogglesOncePerEdge : Obligations.SlideTogglesOncePerEdge := by
  unfold Obligations.SlideTogglesOncePerEdge
  intro m s i0 i1 ls hs hc h0 h1 hls
  obtain ⟨t, hrun, htoggled, hrest⟩ := execN_edges m hs hc hls
  exact ⟨t, hrun, htoggled.seq.trans hs, h0 ▸ htoggled.ind0, h1 ▸ htoggled.ind1, htoggled.swLast,
    htoggled.evCount, hrest⟩

end Sys2Proof.Machine

/-! SUPPORT. The trackers as loops: past its acquisitions a tracker goes on until it is cancelled, and it
changes nothing outside its own fields. -/

namespace Sys2Proof.Machine

/-! ### A tracker that is not cancelled goes on (R116, R122) -/

/-- A position of the command `i` past its acquisitions, with no cancelled wait behind it. -/
structure InLoop (i : Instr) (q : Seq) : Prop where
  runs : runningCommand q = some i
  acquired : acquiresAt q = none
  tilt : q ≠ .tiltRun .cancelled
  slide : ∀ i0 i1, q ≠ .slideRun i0 i1 .cancelled

/-- From `s` to `t` the command `i` has gone on in its loop. -/
structure GoesOn (i : Instr) (s t : State) : Prop where
  inLoop : InLoop i t.seq
  busy : t.regs.status.busy = s.regs.status.busy
  cancel : t.regs.cancel = s.regs.cancel

theorem InLoop.keypad {p : KeypadPos} (h : acquiresAt (.keypadRun p) = none) :
    InLoop .keypadRun (.keypadRun p) :=
  ⟨rfl, h, nofun, nofun⟩

section
variable {i : Instr} {q : Seq} {s s' : State}

/-- A move within the loop that changes no register. -/
theorem GoesOn.goto (hq : InLoop i q) (hregs : s'.regs = s.regs := by rfl) :
    GoesOn i s (goto q s') :=
  ⟨hq, congrArg (·.status.busy) hregs, congrArg (·.cancel) hregs⟩

theorem GoesOn.sampled (l : Line) (hq : InLoop i q) (hregs : s'.regs = s.regs := by rfl) :
    GoesOn i s (Machine.goto q (sample l s').2) :=
  .goto hq ((sample_regs l s').trans hregs)

theorem keypadMicro_goesOn {p : KeypadPos} (hp : acquiresAt (.keypadRun p) = none)
    (hc : s.regs.cancel ≠ 1) : GoesOn .keypadRun s (keypadMicro p s) := by
  cases p with
  | acquireRow | acquireColumn => cases hp
  | top =>
    simp only [keypadMicro, if_neg hc]
    exact .goto (.keypad rfl)
  | rowHigh | rowHold | scanHold => exact .goto (.keypad rfl)
  | firstColumn r => exact .sampled (.kcol 0) (.keypad rfl)
  | seen r c b =>
    simp only [keypadMicro]
    split
    · rename_i c' _
      exact .sampled (.kcol c') (.keypad rfl) (markKey_regs r c b s)
    · have hrow : acquiresAt (.keypadRun (afterRow r)) = none := by
        unfold afterRow
        split <;> rfl
      exact .goto (.keypad hrow) (markKey_regs r c b s)
  | endOfPass =>
    simp only [keypadMicro]
    rcases endOfPass_cases s with ⟨-, h⟩ | ⟨-, h⟩ <;> rw [h] <;> exact ⟨.keypad rfl, rfl, rfl⟩

theorem tiltMicro_goesOn {p : TiltPos} (hp : InLoop .tiltRun (.tiltRun p)) (hc : s.regs.cancel ≠ 1) :
    GoesOn .tiltRun s (tiltMicro p s) := by
  cases p with
  | acquireSwitch | acquireInd0 | acquireInd1 => cases hp.acquired
  | cancelled => exact absurd rfl hp.tilt
  | top | waitEdge =>
    rw [tiltMicro_samples (by simp) hc]
    split <;> exact .sampled .swIn ⟨rfl, rfl, nofun, nofun⟩
  | firstSample | settledSample => exact .goto ⟨rfl, rfl, nofun, nofun⟩ (sample_regs .swIn s)
  | settleHold | reportHold => exact .goto ⟨rfl, rfl, nofun, nofun⟩
  | report v => exact ⟨⟨rfl, rfl, nofun, nofun⟩, rfl, rfl⟩

theorem slideMicro_goesOn {i0 i1 : Bit} {p : SlidePos}
    (hp : InLoop (.slideRun i0 i1) (.slideRun i0 i1 p)) (hc : s.regs.cancel ≠ 1) :
    GoesOn (.slideRun i0 i1) s (slideMicro i0 i1 p s) := by
  cases p with
  | acquireSwitch | acquireInd0 | acquireInd1 => cases hp.acquired
  | cancelled => exact absurd rfl (hp.slide i0 i1)
  | top | waitEdge =>
    rw [slideMicro_samples (by simp) hc]
    split <;> exact .sampled .swIn ⟨rfl, rfl, nofun, nofun⟩
  | firstSample => exact .goto ⟨rfl, rfl, nofun, nofun⟩ (sample_regs .swIn s)
  | driveStart => exact .goto ⟨rfl, rfl, nofun, nofun⟩
  | toggle e => exact ⟨⟨rfl, rfl, nofun, nofun⟩, rfl, rfl⟩

end

/-- The commands that run until they are cancelled (R116). -/
def IsTracker (i : Instr) : Prop :=
  i = .keypadRun ∨ i = .tiltRun ∨ ∃ i0 i1, i = .slideRun i0 i1

/-- A tracker that runs is at a position of its own. -/
theorem tracker_position {q : Seq} {i : Instr} (hi : IsTracker i) (hq : runningCommand q = some i) :
    (∃ p, i = .keypadRun ∧ q = .keypadRun p) ∨ (∃ p, i = .tiltRun ∧ q = .tiltRun p) ∨
      ∃ i0 i1 p, i = .slideRun i0 i1 ∧ q = .slideRun i0 i1 p := by
  cases q with
  | keypadRun p =>
    cases hq
    exact .inl ⟨p, rfl, rfl⟩
  | tiltRun p =>
    cases hq
    exact .inr (.inl ⟨p, rfl, rfl⟩)
  | slideRun i0 i1 p =>
    cases hq
    exact .inr (.inr ⟨i0, i1, p, rfl, rfl⟩)
  | idle => cases hq
  | sendBit | recvBit | adcRead | dhtRead =>
    cases hq
    simp [IsTracker] at hi

theorem micro_goesOn {q : Seq} {i : Instr} {s : State} (hi : IsTracker i) (hq : InLoop i q)
    (hc : s.regs.cancel ≠ 1) : GoesOn i s (micro q s) := by
  rcases tracker_position hi hq.runs with ⟨p, rfl, rfl⟩ | ⟨p, rfl, rfl⟩ | ⟨i0, i1, p, rfl, rfl⟩
  · exact keypadMicro_goesOn hq.acquired hc
  · exact tiltMicro_goesOn hq hc
  · exact slideMicro_goesOn hq hc

/-- Settles O51: no position of the loop ends the command unless it sees `CANCEL`. -/
theorem trackersRunUntilCancelled : Obligations.TrackersRunUntilCancelled := by
  unfold Obligations.TrackersRunUntilCancelled
  intro s i hi hrun hacq hc htilt hslide
  obtain ⟨⟨hruns, hacquired, htilt', hslide'⟩, hbusy, hcancel⟩ :=
    micro_goesOn hi ⟨hrun, hacq, htilt, hslide⟩ (cancel_ne_one hc)
  exact ⟨_, exec_eq_micro hrun, hruns, hacquired, htilt', hslide', hbusy, hcancel.trans hc⟩

/-! ### What a tracker leaves unchanged (R110, R117, R120) -/

theorem markKey_outside (r c : Fin 4) (b : Bit) (s : State) :
    (markKey r c b s).outside .keypadRun = s.outside .keypadRun := by
  unfold markKey
  split <;> rfl

theorem Confined.markKey (r c : Fin 4) (b : Bit) (s : State) :
    Confined .keypadRun s (markKey r c b s) :=
  .of_outside (markKey_outside r c b s) (markKey_own r c b s) (by rw [markKey_ports])

theorem keypadMicro_confined (p : KeypadPos) (s : State) :
    Confined .keypadRun s (keypadMicro p s) := by
  cases p with
  | acquireRow | acquireColumn => exact .acquire (by nofun) _ _
  | top =>
    simp only [keypadMicro]
    split
    · exact .complete rfl
    · exact .of_outside rfl
  | rowHigh | rowHold | scanHold => exact .of_outside rfl
  | firstColumn r => exact (Confined.sample _ (.kcol 0) s).goto _
  | seen r c b =>
    have hmark := Confined.markKey r c b s
    simp only [keypadMicro]
    split
    · rename_i c' _
      exact (hmark.trans (.sample _ (.kcol c') _)).goto _
    · exact hmark.trans (.of_outside rfl)
  | endOfPass =>
    simp only [keypadMicro]
    rcases endOfPass_cases s with ⟨-, h⟩ | ⟨-, h⟩ <;> rw [h] <;> exact .of_outside rfl

theorem tiltMicro_confined (p : TiltPos) (s : State) : Confined .tiltRun s (tiltMicro p s) := by
  have hsample := Confined.sample .tiltRun .swIn s
  cases p with
  | acquireSwitch | acquireInd0 | acquireInd1 => exact .acquire (by nofun) _ _
  | top =>
    by_cases hc : s.regs.cancel = 1
    · rw [tiltMicro_top_cancelled hc]
      exact .complete rfl
    · rw [tiltMicro_samples (.inr rfl) hc]
      exact hsample.goto _
  | waitEdge =>
    by_cases hc : s.regs.cancel = 1
    · rw [tiltMicro_waitEdge_cancelled hc]
      exact .of_outside rfl
    · rw [tiltMicro_samples (.inl rfl) hc]
      exact hsample.goto _
  | cancelled => exact .complete rfl
  | settledSample => exact hsample.goto _
  | firstSample => exact hsample.trans (.of_outside rfl)
  | settleHold | report | reportHold => exact .of_outside rfl

theorem slideMicro_confined (i0 i1 : Bit) (p : SlidePos) (s : State) :
    Confined (.slideRun i0 i1) s (slideMicro i0 i1 p s) := by
  have hsample := Confined.sample (.slideRun i0 i1) .swIn s
  cases p with
  | acquireSwitch | acquireInd0 | acquireInd1 => exact .acquire (by nofun) _ _
  | top =>
    by_cases hc : s.regs.cancel = 1
    · rw [slideMicro_top_cancelled hc]
      exact .complete rfl
    · rw [slideMicro_samples (.inr rfl) hc]
      exact hsample.goto _
  | waitEdge =>
    by_cases hc : s.regs.cancel = 1
    · rw [slideMicro_waitEdge_cancelled hc]
      exact .of_outside rfl
    · rw [slideMicro_samples (.inl rfl) hc]
      exact hsample.goto _
  | cancelled => exact .complete rfl
  | firstSample => exact hsample.trans (.of_outside rfl)
  | driveStart | toggle => exact .of_outside rfl

theorem tracker_micro_confined {q : Seq} {i : Instr} (hi : IsTracker i)
    (hq : runningCommand q = some i) (s : State) : Confined i s (micro q s) := by
  rcases tracker_position hi hq with ⟨p, rfl, rfl⟩ | ⟨p, rfl, rfl⟩ | ⟨i0, i1, p, rfl, rfl⟩
  · exact keypadMicro_confined p s
  · exact tiltMicro_confined p s
  · exact slideMicro_confined i0 i1 p s

/-- A tracker that is accepted or performs a micro-action changes nothing outside it. -/
theorem exec_tracker_confined {i : Instr} {s t : State} (hi : IsTracker i)
    (hrun : s.seq = .idle ∨ runningCommand s.seq = some i) (h : exec i s = .next t) :
    Confined i s t := by
  rcases hrun with hidle | hrun
  · cases (exec_accept hidle).symm.trans h
    exact .of_outside (accept_outside i s)
  · cases (exec_eq_micro hrun).symm.trans h
    exact tracker_micro_confined hi hrun s

/-- Settles O59: an accepted or running KEYPAD_RUN is confined to its own fields, and one turned away
changes only `CMD_REJ`. -/
theorem keypadRunFrame : Obligations.KeypadRunFrame := by
  unfold Obligations.KeypadRunFrame
  intro s t hexec
  by_cases hidle : s.seq = .idle ∨ runningCommand s.seq = some .keypadRun
  · obtain ⟨h, hdht⟩ := exec_tracker_confined (.inl rfl) hidle hexec
    refine ⟨congrArg (fun u =>
        { u.regs with status := t.regs.status, keyNew := t.regs.keyNew, keyCur := t.regs.keyCur }) h,
      congrArg (·.regs.status.swEvt) h, fun _ => congrArg (·.regs.status.cmdRej) h, fun hs => ?_,
      congrArg (fun u => { u.work with cur := t.work.cur, prev := t.work.prev }) h,
      congrArg (fun u =>
        { u.env with levels := t.env.levels, grants := t.env.grants, drawn := t.env.drawn }) h,
      congrArg (·.params) h⟩
    have hports := congrArg (fun u =>
      { u.ports with krow := t.ports.krow, dhtOe := t.ports.dhtOe }) h
    exact hports.trans (by rw [(hdht hs).2]; rfl)
  · obtain ⟨hne, hrun⟩ := not_or.mp hidle
    cases (exec_other hne hrun).symm.trans hexec
    exact ⟨rfl, rfl, fun h => absurd h hidle, fun _ => rfl, rfl, rfl, rfl⟩

/-- Settles O60: an accepted or running switch tracker is confined to its own fields, and one turned away
changes only `CMD_REJ`. -/
theorem switchTrackersFrame : Obligations.SwitchTrackersFrame := by
  unfold Obligations.SwitchTrackersFrame
  intro s t i hi hexec
  by_cases hidle : s.seq = .idle ∨ runningCommand s.seq = some i
  · obtain ⟨h, hdht⟩ := exec_tracker_confined (.inr hi) hidle hexec
    replace h : t.outside .tiltRun = s.outside .tiltRun := by
      rcases hi with rfl | ⟨i0, i1, rfl⟩ <;> exact h
    refine ⟨congrArg (fun u =>
        { u.regs with status := t.regs.status, evCount := t.regs.evCount }) h,
      congrArg (·.regs.status.keyEvt) h, congrArg (·.regs.status.keyOvr) h,
      fun _ => congrArg (·.regs.status.cmdRej) h, fun hs => ?_,
      congrArg (fun u => { u.work with swLast := t.work.swLast }) h,
      congrArg (fun u =>
        { u.env with levels := t.env.levels, grants := t.env.grants, drawn := t.env.drawn }) h,
      congrArg (·.params) h⟩
    have hports := congrArg (fun u =>
      { u.ports with ind0 := t.ports.ind0, ind1 := t.ports.ind1, dhtOe := t.ports.dhtOe }) h
    exact hports.trans (by rw [(hdht hs).2]; rfl)
  · obtain ⟨hne, hrun⟩ := not_or.mp hidle
    cases (exec_other hne hrun).symm.trans hexec
    exact ⟨rfl, rfl, rfl, fun h => absurd h hidle, fun _ => rfl, rfl, rfl, rfl⟩

end Sys2Proof.Machine

/-! SUPPORT. One micro-action of a running command either leaves its outcome open or is the one completion
of R130, said once for every command; and O29. -/

namespace Sys2Proof.Machine

/-! ### What a completion does (R130) -/

/-- A result write does not touch `STATUS`. -/
theorem ResultWrite.status {e : ErrCode} {f : Regs → Regs} (hf : ResultWrite e f) (r : Regs) :
    (f r).status = r.status := by
  cases hf <;> rfl

/-- Only a completion with NONE writes results. -/
theorem ResultWrite.eq_id {e : ErrCode} {f : Regs → Regs} (hf : ResultWrite e f) (he : e ≠ .none) :
    f = id := by
  cases hf with
  | nothing => rfl
  | rxbit | adcData | dhtData => exact absurd rfl he

/-- The registers after a completion: the results, then the outcome. -/
theorem complete_regs {e : ErrCode} {f : Regs → Regs} (hf : ResultWrite e f) (s : State) :
    (complete e f s).regs = endRegs e (f s.regs) :=
  congrArg View.regs (complete_view hf s)

/-- Every command has lines to acquire, so it can end with LINE_ACQ (R123, R124). -/
theorem lineAcq_mem_possibleErr (i : Instr) : ErrCode.lineAcq ∈ possibleErr i := by
  cases i <;> simp [possibleErr]

theorem drawGrant_eq (s : State) : (drawGrant s).2 = { s with env := (drawGrant s).2.env } := by
  unfold drawGrant
  split <;> rfl

/-! ### What one micro-action comes to -/

/-- What a micro-action of the command `i` makes of the state `s`: the command goes on with its outcome
still open, or it completes with a code of its own. Before a completion at most working registers have been
computed and a grant drawn. -/
inductive Performed (i : Instr) (s : State) : State → Prop where
  | goesOn {t : State} (hseq : t.seq ≠ .idle) (hbusy : t.regs.status.busy = s.regs.status.busy)
      (hdone : t.regs.status.done = s.regs.status.done) (herr : t.regs.status.err = s.regs.status.err)
      (hrej : t.regs.status.cmdRej = s.regs.status.cmdRej) : Performed i s t
  | ended {e : ErrCode} {f : Regs → Regs} (hf : ResultWrite e f) (he : e ∈ possibleErr i) (w : Work)
      (n : Env) : Performed i s (complete e f { s with work := w, env := n })

section
variable {i : Instr} {q : Seq} {s s' : State}

/-- A move to another position that changes no register. -/
theorem Performed.goto (hq : q ≠ .idle) (hregs : s'.regs = s.regs := by rfl) :
    Performed i s (goto q s') :=
  .goesOn hq (congrArg (·.status.busy) hregs) (congrArg (·.status.done) hregs)
    (congrArg (·.status.err) hregs) (congrArg (·.status.cmdRej) hregs)

theorem Performed.sampled (l : Line) (hq : q ≠ .idle) (hregs : s'.regs = s.regs := by rfl) :
    Performed i s (Machine.goto q (sample l s').2) :=
  .goto hq ((sample_regs l s').trans hregs)

theorem Performed.complete {e : ErrCode} {f : Regs → Regs} (hf : ResultWrite e f)
    (he : e ∈ possibleErr i := by simp [possibleErr]) : Performed i s (complete e f s) :=
  .ended hf he s.work s.env

theorem Performed.acquire (l : Line) (d : Dir) (hq : q ≠ .idle) :
    Performed i s (acquire l d q s) := by
  rcases acquire_cases l d q s with h | h <;> rw [h]
  · exact .goto hq (drawGrant_regs s)
  · rw [drawGrant_eq]
    exact .ended (.nothing .lineAcq) (lineAcq_mem_possibleErr i) s.work _

theorem Performed.pathMicro (ch : BitVec 2) (path : RecvPos → AdcPos) (got : Bit → AdcPos)
    (p : RecvPos) (hregs : s'.regs = s.regs) :
    Performed i s (pathMicro ch path got p s') := by
  cases p with
  | clockLow | clockHigh | holdLow | holdHigh => exact .goto nofun hregs
  | sample => exact .sampled .sdi nofun hregs

/-- A poll, or the TIMEOUT of the wait it belongs to (R98). -/
theorem Performed.pollMicro (site : WaitSite) (k : Nat) (w : Work) :
    Performed .dhtRead s (pollMicro site k { s with work := w }) := by
  rcases pollMicro_cases site k { s with work := w } with ⟨h, -⟩ | ⟨h, -⟩ <;> rw [h]
  · exact .sampled .dht nofun
  · exact .ended (.nothing .timeout) (by simp [possibleErr]) w s.env

/-- The end of DHT_READ, with NONE or with CHECKSUM (R103, R104). -/
theorem Performed.dhtFinish (w : Work) : Performed .dhtRead s (dhtFinish { s with work := w }) := by
  rcases dhtFinish_cases { s with work := w } with ⟨h, hvalid⟩ | ⟨h, -⟩ <;> rw [h]
  · exact .ended (.dhtData _ hvalid) (by simp [possibleErr]) w s.env
  · exact .ended (.nothing .checksum) (by simp [possibleErr]) w s.env

end

/-! ### The micro-actions of each command -/

section
variable {s : State}

theorem sendBitMicro_performed (v : Bit) (p : SendBitPos) :
    Performed (.sendBit v) s (sendBitMicro v p s) := by
  cases p with
  | acquireClock | acquireData => exact .acquire _ _ nofun
  | send p => cases p <;> exact .goto nofun
  | finish => exact .complete (.nothing .none)

theorem recvBitMicro_performed (p : RecvBitPos) : Performed .recvBit s (recvBitMicro p s) := by
  cases p with
  | acquireClock | acquireData => exact .acquire _ _ nofun
  | recv p =>
    cases p with
    | clockLow | clockHigh | holdLow | holdHigh => exact .goto nofun
    | sample => exact .sampled .sdi nofun
  | finish b => exact .complete (.rxbit b)

theorem adcMicro_performed (ch : BitVec 2) (p : AdcPos) :
    Performed (.adcRead ch) s (adcMicro ch p s) := by
  cases p with
  | acquireSelect | acquireClock | acquireOut | acquireIn => exact .acquire _ _ nofun
  | selectLow | holdSelected | holdReleased | startMsb | sharedGot => exact .goto nofun
  | header k p => cases p <;> exact .goto nofun
  | msbPath | lsbPath => exact .pathMicro _ _ _ _ rfl
  | msbGot =>
    simp only [adcMicro]
    split
    · exact .pathMicro _ _ _ _ rfl
    · exact .sampled .sdi nofun
  | lsbGot =>
    simp only [adcMicro]
    split
    · exact .pathMicro _ _ _ _ rfl
    · exact .goto nofun
  | finish =>
    simp only [adcMicro]
    split
    · exact .complete (.adcData ch _)
    · exact .complete (.nothing .sampleDisagree)

theorem dhtMicro_performed (p : DhtPos) : Performed .dhtRead s (dhtMicro p s) := by
  cases p with
  | acquireOut | acquireIn => exact .acquire _ _ nofun
  | driveLow | driveHigh | holdLow | holdHigh => exact .goto nofun
  | wait site p =>
    simp only [dhtMicro]
    rcases waitMicro_cases site p s with ⟨site', k, f, y, n, h⟩ | ⟨k, b, -, h⟩ | ⟨f, y, n, h⟩ <;>
      rw [h]
    · exact .pollMicro site' k _
    · exact .goto nofun
    · exact .dhtFinish _

theorem keypadMicro_performed (p : KeypadPos) : Performed .keypadRun s (keypadMicro p s) := by
  cases p with
  | acquireRow | acquireColumn => exact .acquire _ _ nofun
  | top =>
    simp only [keypadMicro]
    split
    · exact .complete (.nothing .none)
    · exact .goto nofun
  | rowHigh | rowHold | scanHold => exact .goto nofun
  | firstColumn => exact .sampled (.kcol 0) nofun
  | seen r c b =>
    simp only [keypadMicro]
    split
    · rename_i c' _
      exact .sampled (.kcol c') nofun (markKey_regs r c b s)
    · exact .goto nofun (markKey_regs r c b s)
  | endOfPass =>
    simp only [keypadMicro]
    rcases endOfPass_cases s with ⟨-, h⟩ | ⟨-, h⟩ <;> rw [h] <;> exact .goesOn nofun rfl rfl rfl rfl

theorem tiltMicro_performed (p : TiltPos) : Performed .tiltRun s (tiltMicro p s) := by
  cases p with
  | acquireSwitch | acquireInd0 | acquireInd1 => exact .acquire _ _ nofun
  | top =>
    by_cases hc : s.regs.cancel = 1
    · rw [tiltMicro_top_cancelled hc]
      exact .complete (.nothing .none)
    · rw [tiltMicro_samples (.inr rfl) hc]
      split <;> exact .sampled .swIn nofun
  | waitEdge =>
    by_cases hc : s.regs.cancel = 1
    · rw [tiltMicro_waitEdge_cancelled hc]
      exact .goto nofun
    · rw [tiltMicro_samples (.inl rfl) hc]
      split <;> exact .sampled .swIn nofun
  | cancelled => exact .complete (.nothing .none)
  | firstSample | settledSample => exact .goto nofun (sample_regs .swIn s)
  | settleHold | reportHold => exact .goto nofun
  | report => exact .goesOn nofun rfl rfl rfl rfl

theorem slideMicro_performed (i0 i1 : Bit) (p : SlidePos) :
    Performed (.slideRun i0 i1) s (slideMicro i0 i1 p s) := by
  cases p with
  | acquireSwitch | acquireInd0 | acquireInd1 => exact .acquire _ _ nofun
  | top =>
    by_cases hc : s.regs.cancel = 1
    · rw [slideMicro_top_cancelled hc]
      exact .complete (.nothing .none)
    · rw [slideMicro_samples (.inr rfl) hc]
      split <;> exact .sampled .swIn nofun
  | waitEdge =>
    by_cases hc : s.regs.cancel = 1
    · rw [slideMicro_waitEdge_cancelled hc]
      exact .goto nofun
    · rw [slideMicro_samples (.inl rfl) hc]
      split <;> exact .sampled .swIn nofun
  | cancelled => exact .complete (.nothing .none)
  | driveStart => exact .goto nofun
  | firstSample => exact .goto nofun (sample_regs .swIn s)
  | toggle => exact .goesOn nofun rfl rfl rfl rfl

end

theorem micro_performed {q : Seq} {i : Instr} (hq : runningCommand q = some i) (s : State) :
    Performed i s (micro q s) := by
  cases q <;> cases hq
  case sendBit v p => exact sendBitMicro_performed v p
  case recvBit p => exact recvBitMicro_performed p
  case adcRead ch p => exact adcMicro_performed ch p
  case dhtRead p => exact dhtMicro_performed p
  case keypadRun p => exact keypadMicro_performed p
  case tiltRun p => exact tiltMicro_performed p
  case slideRun i0 i1 p => exact slideMicro_performed i0 i1 p

/-- Settles O29: a micro-action that ends its command is `complete` with a code and results of its own,
and any other leaves the outcome open. -/
theorem completionIsOneStep : Obligations.CompletionIsOneStep := by
  unfold Obligations.CompletionIsOneStep
  intro s t i hrun hexec
  have hperformed : Performed i s t := by
    cases (exec_eq_micro hrun).symm.trans hexec
    exact micro_performed hrun s
  cases hperformed with
  | goesOn hseq hbusy hdone herr hrej =>
    rw [if_neg hseq]
    exact ⟨hbusy, hdone, herr, hrej⟩
  | @ended e f hf he w n =>
    rw [if_pos (complete_seq e f _), complete_regs hf]
    refine ⟨?_, Own.get_empty, complete_ports e f _, fun hne => ?_, he⟩
    · simp only [endRegs, hf.status]
    · rw [hf.eq_id hne]
      rfl

end Sys2Proof.Machine

/-! SUPPORT. The sequencer's turn of an idle block. -/

namespace Sys2Proof.Machine

/-- An idle block has no micro-action to perform (R143). -/
theorem sequencerTurn_idle {s : State} (hidle : s.seq = .idle) : sequencerTurn exec s = .next s := by
  rw [sequencerTurn_eq_micro, hidle]
  rfl

/-- Settles O10: the sequencer's turn is drawn from the queue, and an idle block lets it pass. -/
theorem idleBlockRunsNothing : Obligations.IdleBlockRunsNothing := by
  unfold Obligations.IdleBlockRunsNothing
  intro s ts hturn hidle
  rw [step_seq hturn]
  exact sequencerTurn_idle hidle

end Sys2Proof.Machine
